-- ==== Sys2Proof/Word.lean ====
section
/-!
DEFINITION. The widths of the machine's values (spec/00_scope.md R8, R11) and nothing else.
Every value is an unsigned number; a bit vector is used where the spec adds, masks or shifts the value.
-/

namespace Sys2Proof

/-- An 8-bit value: a general register, a timer, a byte of memory (R8, R30, R38, R60). -/
abbrev Byte := BitVec 8

/-- A 16-bit value: `pc`, `I`, a stack entry, an opcode (R8, R33, R37, R39, R80). -/
abbrev Word := BitVec 16

/-- A register number, "always in [0,15]" (R30); also a key index 0..15 (R15). -/
abbrev Reg := Fin 16

/-- The 12-bit immediate `NNN` (R82). -/
abbrev Addr12 := BitVec 12

/-- `VF`, the flag register (R12, R31). -/
abbrev VF : Reg := 15

end Sys2Proof
end

