-- ==== Sys2Proof/Syntax.lean ====
section
/-!
DEFINITION. The instructions: one constructor per row of spec/opcode_table.json (R80, R83), in the table's order.
The fields are those of the row's format (R81, R82): `nnn` a 12-bit address, `nn` an 8-bit immediate, `n` a row count
0-15, `x` and `y` register numbers.
-/

namespace Sys2Proof

/-- The 35 encodings of R83. -/
inductive Instr
  /-- 0NNN `SYS NNN` (R101). -/
  | sys (nnn : Addr12)
  /-- 00E0 `CLS` (R187). -/
  | cls
  /-- 00EE `RET` (R102). -/
  | ret
  /-- 1NNN `JP NNN` (R103). -/
  | jp (nnn : Addr12)
  /-- 2NNN `CALL NNN` (R104). -/
  | call (nnn : Addr12)
  /-- 3XNN `SE VX, NN` (R105). -/
  | seImm (x : Reg) (nn : Byte)
  /-- 4XNN `SNE VX, NN` (R106). -/
  | sneImm (x : Reg) (nn : Byte)
  /-- 5XY0 `SE VX, VY` (R107). -/
  | seReg (x y : Reg)
  /-- 6XNN `LD VX, NN` (R130). -/
  | ldImm (x : Reg) (nn : Byte)
  /-- 7XNN `ADD VX, NN` (R131). -/
  | addImm (x : Reg) (nn : Byte)
  /-- 8XY0 `LD VX, VY` (R152). -/
  | ldReg (x y : Reg)
  /-- 8XY1 `OR VX, VY` (R153). -/
  | orReg (x y : Reg)
  /-- 8XY2 `AND VX, VY` (R154). -/
  | andReg (x y : Reg)
  /-- 8XY3 `XOR VX, VY` (R155). -/
  | xorReg (x y : Reg)
  /-- 8XY4 `ADD VX, VY` (R156). -/
  | addReg (x y : Reg)
  /-- 8XY5 `SUB VX, VY` (R157). -/
  | sub (x y : Reg)
  /-- 8XY6 `SHR VX, VY` (R158). -/
  | shr (x y : Reg)
  /-- 8XY7 `SUBN VX, VY` (R159). -/
  | subn (x y : Reg)
  /-- 8XYE `SHL VX, VY` (R160). -/
  | shl (x y : Reg)
  /-- 9XY0 `SNE VX, VY` (R108). -/
  | sneReg (x y : Reg)
  /-- ANNN `LD I, NNN` (R132). -/
  | ldI (nnn : Addr12)
  /-- BNNN `JP V0, NNN` (R109). -/
  | jpV0 (nnn : Addr12)
  /-- CXNN `RND VX, NN` (R133). -/
  | rnd (x : Reg) (nn : Byte)
  /-- DXYN `DRW VX, VY, N` (R188). -/
  | drw (x y : Reg) (n : Fin 16)
  /-- EX9E `SKP VX` (R211). -/
  | skp (x : Reg)
  /-- EXA1 `SKNP VX` (R212). -/
  | sknp (x : Reg)
  /-- FX07 `LD VX, DT` (R213). -/
  | ldVxDt (x : Reg)
  /-- FX0A `LD VX, K` (R214). -/
  | ldVxK (x : Reg)
  /-- FX15 `LD DT, VX` (R215). -/
  | ldDtVx (x : Reg)
  /-- FX18 `LD ST, VX` (R216). -/
  | ldStVx (x : Reg)
  /-- FX1E `ADD I, VX` (R240). -/
  | addIVx (x : Reg)
  /-- FX29 `LD F, VX` (R241). -/
  | ldFVx (x : Reg)
  /-- FX33 `LD B, VX` (R242). -/
  | ldBVx (x : Reg)
  /-- FX55 `LD [I], VX` (R243). -/
  | ldMemVx (x : Reg)
  /-- FX65 `LD VX, [I]` (R244). -/
  | ldVxMem (x : Reg)
deriving DecidableEq, Repr

end Sys2Proof
end

