-- ==== Sys2Proof/Decode.lean ====
section
/-!
DEFINITION. Decoding (spec/30_encoding.md R80-R95): total on every word and on every list of bytes, rejecting by name.
After it, the encoder, written from the same tables, and the host's `decodeTableWord`.
-/

namespace Sys2Proof

/-! ## Fields of a word -/

/-- R10: `v[hi:lo]`, "bits hi down to lo of v, taken as an unsigned number"; bit 0 is the least significant. -/
def bits (v : Word) (hi lo : Nat) : Nat := v.toNat / 2 ^ lo % 2 ^ (hi + 1 - lo)

/-- R81: `X = op[11:8]`. -/
def fieldX (op : Word) : Reg := Fin.ofNat 16 (bits op 11 8)

/-- R81: `Y = op[7:4]`. -/
def fieldY (op : Word) : Reg := Fin.ofNat 16 (bits op 7 4)

/-- R81: `N = op[3:0]`. -/
def fieldN (op : Word) : Fin 16 := Fin.ofNat 16 (bits op 3 0)

/-- R81: `NN = op[7:0]`. -/
def fieldNN (op : Word) : Byte := BitVec.ofNat 8 (bits op 7 0)

/-- R81: `NNN = op[11:0]`. -/
def fieldNNN (op : Word) : Addr12 := BitVec.ofNat 12 (bits op 11 0)

/-- R64: "first byte as the high byte", `mem[pc] * 256 + mem[pc+1]`. -/
def wordOf (hi lo : Byte) : Word := BitVec.ofNat 16 (hi.toNat * 256 + lo.toNat)

/-- The two bytes of an opcode in memory order, high byte first (R64, R80). -/
def wordBytes (op : Word) : List Byte :=
  [BitVec.ofNat 8 (op.toNat / 256), BitVec.ofNat 8 (op.toNat % 256)]

/-! ## Decoding -/

/-- Why a decoder rejects. -/
inductive Reject
  /-- R84-R88, R92: a recognised category, an unrecognised concrete form. The cycle raises `InvalidOpcode` (R95). Safe:
  it is the spec's own fault. -/
  | invalidOpcode
  /-- R89: "top-level category itself unrecognized"; no word is rejected so (conflict C9). -/
  | unknownOpcode
  /-- R80: fewer than the two bytes an opcode has. No cycle gets here: the fetch range is checked first (R91). -/
  | truncated
deriving DecidableEq, Repr

/-- R84: the category 0, where the fixed words are matched before SYS (R93). -/
def decodeFamily0 (op : Word) : Except Reject Instr :=
  if op = 0x00E0#16 then .ok .cls
  else if op = 0x00EE#16 then .ok .ret
  else .ok (.sys (fieldNNN op))

/-- R85: the category 8, dispatched on `op[3:0]`. -/
def decodeFamily8 (op : Word) : Except Reject Instr :=
  match bits op 3 0 with
  | 0x0 => .ok (.ldReg (fieldX op) (fieldY op))
  | 0x1 => .ok (.orReg (fieldX op) (fieldY op))
  | 0x2 => .ok (.andReg (fieldX op) (fieldY op))
  | 0x3 => .ok (.xorReg (fieldX op) (fieldY op))
  | 0x4 => .ok (.addReg (fieldX op) (fieldY op))
  | 0x5 => .ok (.sub (fieldX op) (fieldY op))
  | 0x6 => .ok (.shr (fieldX op) (fieldY op))
  | 0x7 => .ok (.subn (fieldX op) (fieldY op))
  | 0xE => .ok (.shl (fieldX op) (fieldY op))
  | _ => .error .invalidOpcode

/-- R86: the category E, dispatched on `op[7:0]`. -/
def decodeFamilyE (op : Word) : Except Reject Instr :=
  if bits op 7 0 = 0x9E then .ok (.skp (fieldX op))
  else if bits op 7 0 = 0xA1 then .ok (.sknp (fieldX op))
  else .error .invalidOpcode

/-- R87: the category F, dispatched on `op[7:0]`. -/
def decodeFamilyF (op : Word) : Except Reject Instr :=
  if bits op 7 0 = 0x07 then .ok (.ldVxDt (fieldX op))
  else if bits op 7 0 = 0x0A then .ok (.ldVxK (fieldX op))
  else if bits op 7 0 = 0x15 then .ok (.ldDtVx (fieldX op))
  else if bits op 7 0 = 0x18 then .ok (.ldStVx (fieldX op))
  else if bits op 7 0 = 0x1E then .ok (.addIVx (fieldX op))
  else if bits op 7 0 = 0x29 then .ok (.ldFVx (fieldX op))
  else if bits op 7 0 = 0x33 then .ok (.ldBVx (fieldX op))
  else if bits op 7 0 = 0x55 then .ok (.ldMemVx (fieldX op))
  else if bits op 7 0 = 0x65 then .ok (.ldVxMem (fieldX op))
  else .error .invalidOpcode

/-- R83: dispatch "on the opcode's top nibble, with further dispatch on the bottom nibble or bottom byte". -/
def decode (op : Word) : Except Reject Instr :=
  match bits op 15 12 with
  | 0x0 => decodeFamily0 op
  | 0x1 => .ok (.jp (fieldNNN op))
  | 0x2 => .ok (.call (fieldNNN op))
  | 0x3 => .ok (.seImm (fieldX op) (fieldNN op))
  | 0x4 => .ok (.sneImm (fieldX op) (fieldNN op))
  | 0x5 => if bits op 3 0 = 0 then .ok (.seReg (fieldX op) (fieldY op)) else .error .invalidOpcode
  | 0x6 => .ok (.ldImm (fieldX op) (fieldNN op))
  | 0x7 => .ok (.addImm (fieldX op) (fieldNN op))
  | 0x8 => decodeFamily8 op
  | 0x9 => if bits op 3 0 = 0 then .ok (.sneReg (fieldX op) (fieldY op)) else .error .invalidOpcode
  | 0xA => .ok (.ldI (fieldNNN op))
  | 0xB => .ok (.jpV0 (fieldNNN op))
  | 0xC => .ok (.rnd (fieldX op) (fieldNN op))
  | 0xD => .ok (.drw (fieldX op) (fieldY op) (fieldN op))
  | 0xE => decodeFamilyE op
  | 0xF => decodeFamilyF op
  | _ => .error .unknownOpcode

/-- R80: "A decoder always consumes 2 bytes"; the instruction and the bytes after it. -/
def decodeBytes : List Byte → Except Reject (Instr × List Byte)
  | hi :: lo :: rest =>
    match decode (wordOf hi lo) with
    | .ok i => .ok (i, rest)
    | .error e => .error e
  | [_] => .error .truncated
  | [] => .error .truncated

/-! ## Encoding -/

/-- Format `NNN` of R81. -/
def packNNN (o : Nat) (nnn : Addr12) : Word := BitVec.ofNat 16 (o * 4096 + nnn.toNat)

/-- Format `XNN` of R81. -/
def packXNN (o : Nat) (x : Reg) (nn : Byte) : Word := BitVec.ofNat 16 (o * 4096 + x.val * 256 + nn.toNat)

/-- Formats `XY` and `XYN` of R81; the low nibble `n` is the function field or the row count. -/
def packXYN (o : Nat) (x y : Reg) (n : Nat) : Word := BitVec.ofNat 16 (o * 4096 + x.val * 256 + y.val * 16 + n)

/-- Format `X` of R81; the low byte `f` is the function field. -/
def packX (o : Nat) (x : Reg) (f : Nat) : Word := BitVec.ofNat 16 (o * 4096 + x.val * 256 + f)

/-- The word of an instruction (R83). -/
def encode : Instr → Word
  | .sys nnn => packNNN 0x0 nnn
  | .cls => 0x00E0#16
  | .ret => 0x00EE#16
  | .jp nnn => packNNN 0x1 nnn
  | .call nnn => packNNN 0x2 nnn
  | .seImm x nn => packXNN 0x3 x nn
  | .sneImm x nn => packXNN 0x4 x nn
  | .seReg x y => packXYN 0x5 x y 0x0
  | .ldImm x nn => packXNN 0x6 x nn
  | .addImm x nn => packXNN 0x7 x nn
  | .ldReg x y => packXYN 0x8 x y 0x0
  | .orReg x y => packXYN 0x8 x y 0x1
  | .andReg x y => packXYN 0x8 x y 0x2
  | .xorReg x y => packXYN 0x8 x y 0x3
  | .addReg x y => packXYN 0x8 x y 0x4
  | .sub x y => packXYN 0x8 x y 0x5
  | .shr x y => packXYN 0x8 x y 0x6
  | .subn x y => packXYN 0x8 x y 0x7
  | .shl x y => packXYN 0x8 x y 0xE
  | .sneReg x y => packXYN 0x9 x y 0x0
  | .ldI nnn => packNNN 0xA nnn
  | .jpV0 nnn => packNNN 0xB nnn
  | .rnd x nn => packXNN 0xC x nn
  | .drw x y n => packXYN 0xD x y n.val
  | .skp x => packX 0xE x 0x9E
  | .sknp x => packX 0xE x 0xA1
  | .ldVxDt x => packX 0xF x 0x07
  | .ldVxK x => packX 0xF x 0x0A
  | .ldDtVx x => packX 0xF x 0x15
  | .ldStVx x => packX 0xF x 0x18
  | .addIVx x => packX 0xF x 0x1E
  | .ldFVx x => packX 0xF x 0x29
  | .ldBVx x => packX 0xF x 0x33
  | .ldMemVx x => packX 0xF x 0x55
  | .ldVxMem x => packX 0xF x 0x65

/-- The bytes of an instruction as memory holds them (R64). -/
def encodeBytes (i : Instr) : List Byte := wordBytes (encode i)

/-! ## The opcode table's own view -/

/-- The fixed bits of the instruction's row of spec/opcode_table.json, as `(hi, lo, value)`. -/
def fixedBits : Instr → List (Nat × Nat × Nat)
  | .sys _ => [(15, 12, 0)]
  | .cls => [(15, 0, 0x00E0)]
  | .ret => [(15, 0, 0x00EE)]
  | .jp _ => [(15, 12, 1)]
  | .call _ => [(15, 12, 2)]
  | .seImm _ _ => [(15, 12, 3)]
  | .sneImm _ _ => [(15, 12, 4)]
  | .seReg _ _ => [(3, 0, 0), (15, 12, 5)]
  | .ldImm _ _ => [(15, 12, 6)]
  | .addImm _ _ => [(15, 12, 7)]
  | .ldReg _ _ => [(3, 0, 0), (15, 12, 8)]
  | .orReg _ _ => [(3, 0, 1), (15, 12, 8)]
  | .andReg _ _ => [(3, 0, 2), (15, 12, 8)]
  | .xorReg _ _ => [(3, 0, 3), (15, 12, 8)]
  | .addReg _ _ => [(3, 0, 4), (15, 12, 8)]
  | .sub _ _ => [(3, 0, 5), (15, 12, 8)]
  | .shr _ _ => [(3, 0, 6), (15, 12, 8)]
  | .subn _ _ => [(3, 0, 7), (15, 12, 8)]
  | .shl _ _ => [(3, 0, 14), (15, 12, 8)]
  | .sneReg _ _ => [(3, 0, 0), (15, 12, 9)]
  | .ldI _ => [(15, 12, 10)]
  | .jpV0 _ => [(15, 12, 11)]
  | .rnd _ _ => [(15, 12, 12)]
  | .drw _ _ _ => [(15, 12, 13)]
  | .skp _ => [(7, 0, 158), (15, 12, 14)]
  | .sknp _ => [(7, 0, 161), (15, 12, 14)]
  | .ldVxDt _ => [(7, 0, 7), (15, 12, 15)]
  | .ldVxK _ => [(7, 0, 10), (15, 12, 15)]
  | .ldDtVx _ => [(7, 0, 21), (15, 12, 15)]
  | .ldStVx _ => [(7, 0, 24), (15, 12, 15)]
  | .addIVx _ => [(7, 0, 30), (15, 12, 15)]
  | .ldFVx _ => [(7, 0, 41), (15, 12, 15)]
  | .ldBVx _ => [(7, 0, 51), (15, 12, 15)]
  | .ldMemVx _ => [(7, 0, 85), (15, 12, 15)]
  | .ldVxMem _ => [(7, 0, 101), (15, 12, 15)]

/-! ## The host's view of the table -/

/-- The word whose low `nbits` bits are those of `w` and whose other bits are 0. -/
def tableWord (nbits w : Nat) : Word := BitVec.ofNat 16 (w % 2 ^ nbits)

/-- The instruction the decoder reads from a word of the opcode table: every row is one 16-bit word (R80), so bit `k` of
`w` is bit `k` of the opcode (R10), and its bytes are laid out high byte first (R64). -/
def decodeTableWord (nbits w : Nat) : Option Instr :=
  match decodeBytes (wordBytes (tableWord nbits w)) with
  | .ok (i, _) => some i
  | .error _ => none

end Sys2Proof
end

