-- ==== Sys2Proof/Machine/Flags.lean ====
section
/-!
DEFINITION. Every flag computation of the ISA. The only flag is VF (R150); where an instruction writes it, it is 0 or 1.
-/

namespace Sys2Proof.Machine

/-- The value of VF for a flag (R150: "the flag is 0 or 1"). -/
def flagByte (f : Bool) : Byte := if f then 1#8 else 0#8

/-- 8XY4's flag (R156): "1 iff the wrapped result is numerically less than the pre-update VX". -/
def carryFlag (vx vy : Byte) : Bool := decide ((vx + vy).toNat < vx.toNat)

/-- The not-borrow flag of `a - b` (R157, R159): 1 iff `a >= b` before the subtraction. -/
def notBorrow (a b : Byte) : Bool := decide (b.toNat ≤ a.toNat)

/-- 8XY6's flag (R158): the bit shifted out, `src & 1`. -/
def shrFlag (src : Byte) : Bool := src.getLsbD 0

/-- 8XYE's flag (R160): `src[7:7]`. -/
def shlFlag (src : Byte) : Bool := src.getLsbD 7

end Sys2Proof.Machine
end

