-- ==== Sys2Proof/Config.lean ====
section
/-!
DEFINITION. What an implementation fixes: the parameters of spec/00_scope.md R8, the OPEN parameters of R9, and the free
values of the host boundary (R15). An `opaque` constant here has no body: no proof can see its value, so a statement
that mentions one holds whatever the value is.
-/

namespace Sys2Proof.Config

/-- `MEM_SIZE` (R8): addresses 0x000-0xFFF. -/
abbrev memSize : Nat := 4096

/-- `FONT_BASE` (R8, R46). -/
abbrev fontBase : Nat := 0x050

/-- `FONT_LEN` (R8, R46): 16 glyphs of 5 bytes. -/
abbrev fontLen : Nat := 80

/-- `ROM_BASE` (R8), also the reset `pc` (R49, R402, conflict C1). -/
abbrev romBase : Nat := 0x200

/-- `ROM_MAX` (R8): 4096 - 0x200 = 3584. -/
abbrev romMax : Nat := 3584

/-- `STACK_DEPTH` (R8, R39). -/
abbrev stackDepth : Nat := 16

/-- `SCREEN_W` (R8, R43). -/
abbrev screenW : Nat := 64

/-- `SCREEN_H` (R8, R43). -/
abbrev screenH : Nat := 32

/-- `SHIFT_QUIRK_COPY_VY : Bool` (R9, decision D6 `OPEN`): whether 8XY6 and 8XYE copy VY into VX before shifting.
Open parameter, not fixed here (notes/assumptions/2.md). -/
opaque shiftQuirkCopyVy : Bool

/-- `FONT : 80 bytes` (R9, R46, decision D29 `OPEN`): byte `k` of the font table, for `k` in 0..79.
Open parameter, not fixed here (notes/assumptions/3.md). -/
opaque font : Fin 80 → Byte

/-- `CYCLES_PER_FRAME : Nat` (R9, decision D38 `OPEN`): a parameter of the host's driver; no core rule reads it (R414). -/
opaque cyclesPerFrame : Nat

/-- `RandomByte()` (R15, R426): the host's answer to its `n`-th query. Free over 0..255 (notes/assumptions/4.md). -/
opaque randomByte : Nat → Byte

/-- `KeyDown(k)` (R15, R424): the host's answer to its `n`-th query, when that query asks about key `k`. Free
(notes/assumptions/4.md). -/
opaque keyDown : Nat → Reg → Bool

/-- `FirstKeyDown()` (R15, R425): the host's answer to its `n`-th query. Free over `none` and `some 0` .. `some 15`
(notes/assumptions/4.md). -/
opaque firstKeyDown : Nat → Option Reg

/-- R46: the conventional table, the spec's default for the parameter `FONT` [from general knowledge, not in the source].
The machine does not read it (it reads `font`); the tests use it to check the spec's examples that name the default. -/
def fontDefault : List Byte :=
  [0xF0, 0x90, 0x90, 0x90, 0xF0,  0x20, 0x60, 0x20, 0x20, 0x70] ++
  [0xF0, 0x10, 0xF0, 0x80, 0xF0,  0xF0, 0x10, 0xF0, 0x10, 0xF0] ++
  [0x90, 0x90, 0xF0, 0x10, 0x10,  0xF0, 0x80, 0xF0, 0x10, 0xF0] ++
  [0xF0, 0x80, 0xF0, 0x90, 0xF0,  0xF0, 0x10, 0x20, 0x40, 0x40] ++
  [0xF0, 0x90, 0xF0, 0x90, 0xF0,  0xF0, 0x90, 0xF0, 0x10, 0xF0] ++
  [0xF0, 0x90, 0xF0, 0x90, 0x90,  0xE0, 0x90, 0xE0, 0x90, 0xE0] ++
  [0xF0, 0x80, 0x80, 0x80, 0xF0,  0xE0, 0x90, 0x90, 0x90, 0xE0] ++
  [0xF0, 0x80, 0xF0, 0x80, 0xF0,  0xF0, 0x80, 0xF0, 0x80, 0x80]

end Sys2Proof.Config
end

