-- ==== Sys2Proof/Machine/Operands.lean ====
section
/-!
DEFINITION. Every operand form: how the immediates are widened (R11, R82), which operand a shift takes (R158, R160), and the
values that address computations give (R69, R109, R240, R241) or that FX33 stores (R242).
-/

namespace Sys2Proof.Machine

/-- `zext_16(NNN)` (R82). -/
def zextAddr (nnn : Addr12) : Word := nnn.setWidth 16

/-- `zext_16` of a byte (R11). -/
def zextByte (b : Byte) : Word := b.setWidth 16

/-- The parameter `SHIFT_QUIRK_COPY_VY` (R9). -/
def shiftCopiesVy : Bool := Config.shiftQuirkCopyVy

/-- R158, R160: `src <- SHIFT_QUIRK_COPY_VY ? vy0 : vx0`. -/
def shiftSource (quirk : Bool) (vx vy : Byte) : Byte := if quirk then vy else vx

/-- BNNN's target (R109): `zext_16(V[0]) + zext_16(NNN)`, never masked to 12 bits. -/
def jumpV0Target (v0 : Byte) (nnn : Addr12) : Word := zextByte v0 + zextAddr nnn

/-- FX1E's sum (R240): `(I + V[X]) mod 65536`. -/
def indexSum (i : Word) (vx : Byte) : Word := i + zextByte vx

/-- FX29's address (R241): `0x050 + 5 * V[X]`, on all of V[X]. -/
def glyphAddr (vx : Byte) : Word := BitVec.ofNat 16 (Config.fontBase + 5 * vx.toNat)

/-- FX33's bytes (R242): hundreds, tens, ones. -/
def decimalDigits (v : Byte) : List Byte :=
  [BitVec.ofNat 8 (v.toNat / 100), BitVec.ofNat 8 (v.toNat / 10 % 10), BitVec.ofNat 8 (v.toNat % 10)]

end Sys2Proof.Machine
end

