-- ==== Sys2Proof/Machine/Memory.lean ====
section
/-!
DEFINITION. Memory (spec/20_memory.md): one flat array of 4096 bytes (R60), held as a list of (address, byte) pairs in one
canonical form: addresses strictly rising, every address below 4096, and no entry equal to what an unlisted address reads
as. An unlisted address reads as the reset contents of R62 and R49.
-/

namespace Sys2Proof.Machine

/-- The listed bytes of memory. -/
abbrev Memory := List Host.Cell

/-- Byte `k` of the parameter `FONT` (R46), for `k < 80`. -/
def fontByte (k : Fin 80) : Byte := Config.font k

/-- What an unlisted address reads as: the contents after reset (R49, R62, R68), `FONT` at 0x050-0x09F and 0 elsewhere. -/
def resetByte (a : Nat) : Byte :=
  if h : Config.fontBase ≤ a ∧ a < Config.fontBase + Config.fontLen then
    fontByte ⟨a - Config.fontBase, by have := h.2; have := h.1; simp only [Config.fontBase, Config.fontLen] at *; omega⟩
  else 0#8

/-- `mem[a]` (R12): the byte at address `a`. -/
def Memory.read : Memory → Nat → Byte
  | [], a => resetByte a
  | (b, v) :: rest, a => if b = a then v else Memory.read rest a

/-- `mem[a] <- v`, keeping the canonical form. -/
def Memory.write : Memory → Nat → Byte → Memory
  | [], a, v => if v = resetByte a then [] else [(a, v)]
  | (b, w) :: rest, a, v =>
    if a < b then (if v = resetByte a then (b, w) :: rest else (a, v) :: (b, w) :: rest)
    else if a = b then (if v = resetByte a then rest else (a, v) :: rest)
    else (b, w) :: Memory.write rest a v

/-- `MemRead(a, n)` (R13): the `n` bytes from `a` up, in that order. -/
def Memory.readBytes (m : Memory) : Nat → Nat → List Byte
  | _, 0 => []
  | a, n + 1 => m.read a :: Memory.readBytes m (a + 1) n

/-- `MemWrite(a, n, bytes)` (R13): `bytes[k]` to `mem[a+k]`, in index order. -/
def Memory.writeBytes : Memory → Nat → List Byte → Memory
  | m, _, [] => m
  | m, a, v :: vs => Memory.writeBytes (m.write a v) (a + 1) vs

/-- The canonical form of a list whose addresses start at `lo`. -/
def Memory.wfFrom : Nat → Memory → Bool
  | _, [] => true
  | lo, (a, v) :: rest =>
    decide (lo ≤ a) && decide (a < Config.memSize) && !decide (v = resetByte a) && Memory.wfFrom (a + 1) rest

/-- The canonical form: addresses strictly rising and in range (R60), no entry equal to what an unlisted address reads as. -/
def Memory.wf (m : Memory) : Bool := Memory.wfFrom 0 m

/-- R63: "An access of n bytes starting at `a` is legal iff `a + n <= 4096`, computed on unbounded naturals". -/
def rangeOk (a n : Nat) : Bool := decide (a + n ≤ Config.memSize)

end Sys2Proof.Machine
end

