-- ==== Sys2Proof/Machine/Surface.lean ====
section
/-!
DEFINITION. The display surface (spec/43_display.md): the 64x32 grid of pixels (R43) and the draw algorithm (R180-R184).
The two operations on the core's state, `Draw` and `Clear`, which also set `redraw`, stand in Ops.lean.
-/

namespace Sys2Proof.Machine

/-- "boolean grid of 64×32 pixels" (R43). DESIGN CHOICE: it is laid out row first, 32 rows of 64 pixels, row 0 and column 0
first; the spec fixes `pix(x, y)` only and no host-visible order (91_not_in_source.md N22, notes/assumptions/17.md). -/
abbrev Grid := Vector (Vector Bool 64) 32

/-- Every pixel 0 (R186, R49). -/
def Grid.blank : Grid := Vector.replicate 32 (Vector.replicate 64 false)

/-- `pix(x, y)` (R12, R43): column `x`, row `y`. -/
def Grid.pix (g : Grid) (x : Fin 64) (y : Fin 32) : Bool := (g[y.val])[x.val]

/-- `pix(x, y) <- p`. -/
def Grid.setPix (g : Grid) (x : Fin 64) (y : Fin 32) (p : Bool) : Grid :=
  g.set y.val ((g[y.val]).set x.val p)

/-- The inner loop of R180: the bits `bs` of one row's byte, from column `x0`, with the collision bit so far.
A bit at column 64 or beyond ends this row only (R183). -/
def drawBits (byte : Byte) (x0 : Nat) (y : Fin 32) : List Nat → Grid → Bool → Grid × Bool
  | [], g, col => (g, col)
  | b :: bs, g, col =>
    if hx : x0 + b < 64 then
      let bit := byte.getLsbD (7 - b)
      let old := g.pix ⟨x0 + b, hx⟩ y
      drawBits byte x0 y bs (g.setPix ⟨x0 + b, hx⟩ y (old ^^ bit)) (col || (old && bit))
    else (g, col)

/-- The outer loop of R180: the sprite's rows from screen row `y` down, one byte each.
A row at 32 or beyond ends the sprite (R182). -/
def drawRows (x0 : Nat) : Nat → List Byte → Grid → Bool → Grid × Bool
  | _, [], g, col => (g, col)
  | y, byte :: rest, g, col =>
    if hy : y < 32 then
      let r := drawBits byte x0 ⟨y, hy⟩ [0, 1, 2, 3, 4, 5, 6, 7] g col
      drawRows x0 (y + 1) rest r.1 r.2
    else (g, col)

/-- R180's `Draw(s, xa, ya)` on the grid: only the anchor wraps (R181). Answers the grid and the collision bit. -/
def drawSprite (s : List Byte) (xa ya : Byte) (g : Grid) : Grid × Bool :=
  drawRows (xa.toNat % 64) (ya.toNat % 32) s g false

end Sys2Proof.Machine
end

