-- ==== Sys2Proof/Machine/State.lean ====
section
/-!
DEFINITION. Every piece of state the spec gives the machine (spec/10_state.md R30-R49), as plain data; the fault record
(R300); the reasons a step stops; and the state right after construction (R49, R401).
-/

namespace Sys2Proof.Machine

/-- The fault kinds of R300. -/
inductive FaultKind
  /-- Code 1: "cycle attempted before any ROM loaded" (R90). -/
  | missingRom
  /-- Code 2: "program counter or sprite/data address range runs off the end of memory" (R91, R188, R242-R244). -/
  | invalidRamAddress
  /-- Code 3: "recognized category, unrecognized concrete form" (R84-R88, R101). -/
  | invalidOpcode
  /-- Code 4: "top-level category itself unrecognized"; never raised (R89, conflict C9). -/
  | unknownOpcode
  /-- Code 5: push with sp = 16 (R104). -/
  | stackOverflow
  /-- Code 6: pop with sp = 0 (R102). -/
  | stackUnderflow
  /-- Code 7: "ROM exceeds addressable space"; returned by `load_rom`, never latched (R67, R309). -/
  | invalidRomSize
  /-- Code 8: V[X] > 15 at a key query (R211, R212, decision D17). -/
  | keyIndexOutOfRange
deriving DecidableEq, Repr

/-- The fault record `(kind, pc_fetch, opcode, addr)` of R300. -/
structure FaultRecord where
  kind    : FaultKind
  /-- The fetch address `a`, or `pc` for faults raised before the fetch. -/
  pcFetch : Word
  /-- The fetched word, or none. -/
  opcode  : Option Word
  /-- The start of the failing range, or none. -/
  addr    : Option Word
deriving DecidableEq, Repr

/-- Why a step stops the machine. -/
inductive Fault
  /-- Raised by `step` alone, when the fault latch holds a record: "While `fault != none` a `cycle` transaction has no step"
  (R307). It carries the latched record. Safe: the spec gives such a cycle no effect. -/
  | halted (r : FaultRecord)
deriving DecidableEq, Repr

/-- Why an instruction has no meaning. -/
inductive Refusal
  /-- An instruction of the opcode table that the model gives no meaning yet, by its mnemonic; raised by `exec`'s refused
  arms only. Safe. No arm is refused in this model. -/
  | notModelled (mnemonic : String)
deriving DecidableEq, Repr

/-- The state of the core. -/
structure State where
  /-- V0-VF, 8 bits each (R30). -/
  V         : Vector Byte 16
  /-- The program counter, 16 bits: between cycles the address of the next instruction, during execution the fetch
  address plus 2 (R33). -/
  pc        : Word
  /-- The index register, 16 bits (R37). -/
  I         : Word
  /-- The delay timer, 8 bits (R38). -/
  DT        : Byte
  /-- The sound timer, 8 bits (R38). -/
  ST        : Byte
  /-- The return-address stack: 16 entries of 16 bits (R39). -/
  stack     : Vector Word 16
  /-- The stack pointer, "an integer in [0,16]" (R39). -/
  sp        : Fin 17
  /-- `rom_loaded`, 1 bit (R40). -/
  romLoaded : Bool
  /-- `redraw`, 1 bit (R41). -/
  redraw    : Bool
  /-- The fault latch: none, or one record (R42). -/
  fault     : Option FaultRecord
  /-- The display surface (R43). -/
  pix       : Grid
  /-- RAM, `mem[0..4095]` (R44, R60). -/
  mem       : Memory
  /-- The model's own: how many host queries (R15) have been answered; it numbers the free answers of Config
  (notes/assumptions/4.md). -/
  draws     : Nat
deriving DecidableEq, Repr

/-- Construction, the power-on state (R49, R401): what the host calls the state right after reset. -/
def State.reset : State where
  V         := Vector.replicate 16 0#8
  pc        := 0x200#16
  I         := 0#16
  DT        := 0#8
  ST        := 0#8
  stack     := Vector.replicate 16 0#16
  sp        := 0
  romLoaded := false
  redraw    := false
  fault     := none
  pix       := Grid.blank
  mem       := []
  draws     := 0

end Sys2Proof.Machine
end

