-- ==== Sys2Proof/Machine/Ops.lean ====
section
/-!
DEFINITION. The named operations over registers, stack, memory, display and the host's answers; raising a fault, as one
operation; and what leaves the faulted state. The instructions' meanings are written over these.
-/

namespace Sys2Proof.Machine

/-! ## Registers -/

/-- `V[x]` (R12). -/
def State.readV (s : State) (x : Reg) : Byte := s.V[x.val]

/-- `V[x] <- b` (R12). -/
def State.writeV (s : State) (x : Reg) (b : Byte) : State := { s with V := s.V.set x.val b }

/-- `pc <- target` (R12). -/
def State.setPc (s : State) (target : Word) : State := { s with pc := target }

/-- `I <- a` (R37). -/
def State.setI (s : State) (a : Word) : State := { s with I := a }

/-- `DT <- b` (R38). -/
def State.setDT (s : State) (b : Byte) : State := { s with DT := b }

/-- `ST <- b` (R38). -/
def State.setST (s : State) (b : Byte) : State := { s with ST := b }

/-- R151: `V[X] <- result` and last `VF <- flag`, so that with X = F the flag stays. -/
def State.writeResultFlag (s : State) (x : Reg) (result : Byte) (flag : Bool) : State :=
  (s.writeV x result).writeV VF (flagByte flag)

/-- R110: "Skip-next-instruction (advance PC by an extra 2)", when the condition holds. -/
def State.skipIf (s : State) (c : Bool) : State := if c then s.setPc (s.pc + 2) else s

/-! ## The return-address stack (R39) -/

/-- `Push(a)`: none where it raises StackOverflow. -/
def State.push (s : State) (a : Word) : Option State :=
  if h : s.sp.val < 16 then
    some { s with stack := s.stack.set s.sp.val a, sp := ⟨s.sp.val + 1, by omega⟩ }
  else none

/-- `Pop()`: the popped address and the state after; none where it raises StackUnderflow. -/
def State.pop (s : State) : Option (Word × State) :=
  if h : s.sp.val = 0 then none
  else some (s.stack[s.sp.val - 1], { s with sp := ⟨s.sp.val - 1, by omega⟩ })

/-! ## Memory -/

/-- The bytes an instruction reads (R13, R61). -/
def State.memRead (s : State) (a n : Nat) : List Byte := s.mem.readBytes a n

/-- The bytes an instruction or the host writes (R13, R61). -/
def State.memWrite (s : State) (a : Nat) (bytes : List Byte) : State := { s with mem := s.mem.writeBytes a bytes }

/-- V[0] to V[x] in index order (R243). -/
def State.firstRegs (s : State) (x : Reg) : List Byte := s.V.toList.take (x.val + 1)

/-- R244: `for i in 0 .. k-1: V[i] <- mem[base + i]`, in index order. -/
def loadRegs (m : Memory) (base : Nat) : Nat → Vector Byte 16 → Vector Byte 16
  | 0, V => V
  | k + 1, V => (loadRegs m base k V).setIfInBounds k (m.read (base + k))

/-! ## The display (R180-R186) -/

/-- `Draw(s, xa, ya)` on the core: the grid drawn and `redraw <- 1` (R185); answers the collision bit too. -/
def State.draw (s : State) (sprite : List Byte) (xa ya : Byte) : State × Bool :=
  let r := drawSprite sprite xa ya s.pix
  ({ s with pix := r.1, redraw := true }, r.2)

/-- `Clear()` (R186). -/
def State.clear (s : State) : State := { s with pix := Grid.blank, redraw := true }

/-! ## The host's answers (R15, R424-R426) -/

/-- One query has been answered: the next one gets an answer of its own. -/
def State.nextQuery (s : State) : State := { s with draws := s.draws + 1 }

/-- `RandomByte()`: a free value. -/
def State.askRandom (s : State) : Byte := Config.randomByte s.draws

/-- `KeyDown(k)`: a free value. -/
def State.askKeyDown (s : State) (k : Reg) : Bool := Config.keyDown s.draws k

/-- `FirstKeyDown()`: a free value. -/
def State.askFirstKey (s : State) : Option Reg := Config.firstKeyDown s.draws

/-! ## Raising a fault (R300, R304, R305) -/

/-- `raise`: the record is latched, and nothing else changes (R304). Control goes nowhere, nothing is pushed, no mode
changes; a cycle on a latched fault has no step (R307). -/
def State.raise (s : State) (kind : FaultKind) (pcFetch : Word) (opcode addr : Option Word) : State :=
  { s with fault := some { kind := kind, pcFetch := pcFetch, opcode := opcode, addr := addr } }

/-- The fetch address `a` of the instruction being executed: `pc = a + 2` during execution (R33, R94). -/
def State.fetchAddr (s : State) : Word := s.pc - 2

/-- `raise E(a, op, …)` inside an instruction's rule: the record holds the fetch address and the fetched word (R300), and
`pc` stays `a + 2` (R305). -/
def State.raiseIn (s : State) (kind : FaultKind) (op : Word) (addr : Option Word) : State :=
  s.raise kind s.fetchAddr (some op) addr

/-- The kind a decoder's rejection raises (R95, R300). -/
def rejectKind : Reject → FaultKind
  | .invalidOpcode => .invalidOpcode
  | .unknownOpcode => .unknownOpcode
  | .truncated => .invalidRamAddress

/-- The only way out of the faulted state (R308): the `reset` transaction (R400, R49). Everything takes its reset value but
the stack entries, which `reset` leaves alone; the numbering of the host's answers goes on (notes/assumptions/4.md). -/
def State.resetCore (s : State) : State := { State.reset with stack := s.stack, draws := s.draws }

/-! ## Fetching -/

/-- Steps 1 and 2 of a cycle, in their order (R90, R91, R303): the fault raised before the fetch, if any. -/
def State.prefetchFault (s : State) : Option FaultRecord :=
  if s.romLoaded = false then some { kind := .missingRom, pcFetch := s.pc, opcode := none, addr := none }
  else if rangeOk s.pc.toNat 2 then none
  else some { kind := .invalidRamAddress, pcFetch := s.pc, opcode := none, addr := some s.pc }

/-- `MemRead16(pc)` (R94): the word the next cycle fetches. -/
def State.fetchWord (s : State) : Word := wordOf (s.mem.read s.pc.toNat) (s.mem.read (s.pc.toNat + 1))

/-- Step 3 of a cycle (R94): `pc <- a + 2`, "before executing". -/
def State.advance (s : State) : State := s.setPc (s.pc + 2)

end Sys2Proof.Machine
end

