-- ==== Sys2Proof/Machine/Alu.lean ====
section
/-!
DEFINITION. The meanings of the register-register family (spec/42_alu.md R150-R162).
-/

namespace Sys2Proof.Machine

open Host (Outcome)

/-- R152. -/
def execLdReg (x y : Reg) (s : State) : Outcome State Fault Refusal := .next (s.writeV x (s.readV y))

/-- R153: VF is not written, except as the destination. -/
def execOrReg (x y : Reg) (s : State) : Outcome State Fault Refusal := .next (s.writeV x (s.readV x ||| s.readV y))

/-- R154. -/
def execAndReg (x y : Reg) (s : State) : Outcome State Fault Refusal := .next (s.writeV x (s.readV x &&& s.readV y))

/-- R155. -/
def execXorReg (x y : Reg) (s : State) : Outcome State Fault Refusal := .next (s.writeV x (s.readV x ^^^ s.readV y))

/-- R156. -/
def execAddReg (x y : Reg) (s : State) : Outcome State Fault Refusal :=
  .next (s.writeResultFlag x (s.readV x + s.readV y) (carryFlag (s.readV x) (s.readV y)))

/-- R157. -/
def execSub (x y : Reg) (s : State) : Outcome State Fault Refusal :=
  .next (s.writeResultFlag x (s.readV x - s.readV y) (notBorrow (s.readV x) (s.readV y)))

/-- R158 for a value of `SHIFT_QUIRK_COPY_VY`. -/
def shrWith (quirk : Bool) (x y : Reg) (s : State) : State :=
  s.writeResultFlag x (shiftSource quirk (s.readV x) (s.readV y) >>> 1)
    (shrFlag (shiftSource quirk (s.readV x) (s.readV y)))

/-- R158. -/
def execShr (x y : Reg) (s : State) : Outcome State Fault Refusal := .next (shrWith shiftCopiesVy x y s)

/-- R159. -/
def execSubn (x y : Reg) (s : State) : Outcome State Fault Refusal :=
  .next (s.writeResultFlag x (s.readV y - s.readV x) (notBorrow (s.readV y) (s.readV x)))

/-- R160 for a value of `SHIFT_QUIRK_COPY_VY`. -/
def shlWith (quirk : Bool) (x y : Reg) (s : State) : State :=
  s.writeResultFlag x (shiftSource quirk (s.readV x) (s.readV y) <<< 1)
    (shlFlag (shiftSource quirk (s.readV x) (s.readV y)))

/-- R160. -/
def execShl (x y : Reg) (s : State) : Outcome State Fault Refusal := .next (shlWith shiftCopiesVy x y s)

end Sys2Proof.Machine
end

