-- ==== Sys2Proof/Machine/ControlFlow.lean ====
section
/-!
DEFINITION. The meanings of the control-flow family (spec/40_control_flow.md R100-R110). On entry `pc = a + 2`.
-/

namespace Sys2Proof.Machine

open Host (Outcome)

/-- R101: always `InvalidOpcode`. -/
def execSys (nnn : Addr12) (s : State) : Outcome State Fault Refusal :=
  .next (s.raiseIn .invalidOpcode (encode (.sys nnn)) none)

/-- R102. -/
def execRet (s : State) : Outcome State Fault Refusal :=
  .next (match s.pop with
    | none => s.raiseIn .stackUnderflow (encode .ret) none
    | some (a, t) => t.setPc a)

/-- R103. -/
def execJp (nnn : Addr12) (s : State) : Outcome State Fault Refusal := .next (s.setPc (zextAddr nnn))

/-- R104: `pc = a + 2` is the "current PC" that gets pushed. -/
def execCall (nnn : Addr12) (s : State) : Outcome State Fault Refusal :=
  .next (match s.push s.pc with
    | none => s.raiseIn .stackOverflow (encode (.call nnn)) none
    | some t => t.setPc (zextAddr nnn))

/-- R105. -/
def execSeImm (x : Reg) (nn : Byte) (s : State) : Outcome State Fault Refusal :=
  .next (s.skipIf (decide (s.readV x = nn)))

/-- R106. -/
def execSneImm (x : Reg) (nn : Byte) (s : State) : Outcome State Fault Refusal :=
  .next (s.skipIf (decide (s.readV x ≠ nn)))

/-- R107. -/
def execSeReg (x y : Reg) (s : State) : Outcome State Fault Refusal :=
  .next (s.skipIf (decide (s.readV x = s.readV y)))

/-- R108. -/
def execSneReg (x y : Reg) (s : State) : Outcome State Fault Refusal :=
  .next (s.skipIf (decide (s.readV x ≠ s.readV y)))

/-- R109. -/
def execJpV0 (nnn : Addr12) (s : State) : Outcome State Fault Refusal :=
  .next (s.setPc (jumpV0Target (s.readV 0) nnn))

end Sys2Proof.Machine
end

