-- ==== Sys2Proof/Machine/Display.lean ====
section
/-!
DEFINITION. The meanings of the display family (spec/43_display.md R187, R188).
-/

namespace Sys2Proof.Machine

open Host (Outcome)

/-- R187. -/
def execCls (s : State) : Outcome State Fault Refusal := .next s.clear

/-- R188: the anchors are read before VF is written; the range check comes before every effect. -/
def execDrw (x y : Reg) (n : Fin 16) (s : State) : Outcome State Fault Refusal :=
  .next (if rangeOk s.I.toNat n.val then
      (s.draw (s.memRead s.I.toNat n.val) (s.readV x) (s.readV y)).1.writeV VF
        (flagByte (s.draw (s.memRead s.I.toNat n.val) (s.readV x) (s.readV y)).2)
    else s.raiseIn .invalidRamAddress (encode (.drw x y n)) (some s.I))

end Sys2Proof.Machine
end

