-- ==== Sys2Proof/Machine/Immediate.lean ====
section
/-!
DEFINITION. The meanings of the immediate, index-load and random family (spec/41_immediate_index.md R130-R133).
-/

namespace Sys2Proof.Machine

open Host (Outcome)

/-- R130. -/
def execLdImm (x : Reg) (nn : Byte) (s : State) : Outcome State Fault Refusal := .next (s.writeV x nn)

/-- R131: no carry flag effect. -/
def execAddImm (x : Reg) (nn : Byte) (s : State) : Outcome State Fault Refusal := .next (s.writeV x (s.readV x + nn))

/-- R132. -/
def execLdI (nnn : Addr12) (s : State) : Outcome State Fault Refusal := .next (s.setI (zextAddr nnn))

/-- R133 with the host's answer `r`. -/
def rndWith (r : Byte) (x : Reg) (nn : Byte) (s : State) : State := s.nextQuery.writeV x (r &&& nn)

/-- R133: `r <- RandomByte(); V[X] <- r & NN`. -/
def execRnd (x : Reg) (nn : Byte) (s : State) : Outcome State Fault Refusal := .next (rndWith s.askRandom x nn s)

end Sys2Proof.Machine
end

