-- ==== Sys2Proof/Machine/IndexMemory.lean ====
section
/-!
DEFINITION. The meanings of the index and block-memory family (spec/45_index_memory.md R240-R244).
-/

namespace Sys2Proof.Machine

open Host (Outcome)

/-- R240: VF is not written. -/
def execAddIVx (x : Reg) (s : State) : Outcome State Fault Refusal := .next (s.setI (indexSum s.I (s.readV x)))

/-- R241: memory is not read. -/
def execLdFVx (x : Reg) (s : State) : Outcome State Fault Refusal := .next (s.setI (glyphAddr (s.readV x)))

/-- R242. -/
def execLdBVx (x : Reg) (s : State) : Outcome State Fault Refusal :=
  .next (if rangeOk s.I.toNat 3 then s.memWrite s.I.toNat (decimalDigits (s.readV x))
    else s.raiseIn .invalidRamAddress (encode (.ldBVx x)) (some s.I))

/-- R243: I is not changed. -/
def execLdMemVx (x : Reg) (s : State) : Outcome State Fault Refusal :=
  .next (if rangeOk s.I.toNat (x.val + 1) then s.memWrite s.I.toNat (s.firstRegs x)
    else s.raiseIn .invalidRamAddress (encode (.ldMemVx x)) (some s.I))

/-- R244: I is not changed. -/
def execLdVxMem (x : Reg) (s : State) : Outcome State Fault Refusal :=
  .next (if rangeOk s.I.toNat (x.val + 1) then { s with V := loadRegs s.mem s.I.toNat (x.val + 1) s.V }
    else s.raiseIn .invalidRamAddress (encode (.ldVxMem x)) (some s.I))

end Sys2Proof.Machine
end

