-- ==== Sys2Proof/Machine/KeysTimers.lean ====
section
/-!
DEFINITION. The meanings of the keyboard and timer family (spec/44_keys_timers.md R211-R216).
-/

namespace Sys2Proof.Machine

open Host (Outcome)

/-- The key number a register holds: `KeyDown` "is asked only for k in 0..15" (R210). -/
def keyIndex (v : Byte) : Option Reg := if h : v.toNat < 16 then some ⟨v.toNat, h⟩ else none

/-- R211 with the host's answers `down`. -/
def skpWith (down : Reg → Bool) (x : Reg) (s : State) : State :=
  match keyIndex (s.readV x) with
  | none => s.raiseIn .keyIndexOutOfRange (encode (.skp x)) none
  | some k => s.nextQuery.skipIf (down k)

/-- R211. -/
def execSkp (x : Reg) (s : State) : Outcome State Fault Refusal := .next (skpWith s.askKeyDown x s)

/-- R212 with the host's answers `down`. -/
def sknpWith (down : Reg → Bool) (x : Reg) (s : State) : State :=
  match keyIndex (s.readV x) with
  | none => s.raiseIn .keyIndexOutOfRange (encode (.sknp x)) none
  | some k => s.nextQuery.skipIf (!down k)

/-- R212. -/
def execSknp (x : Reg) (s : State) : Outcome State Fault Refusal := .next (sknpWith s.askKeyDown x s)

/-- R213. -/
def execLdVxDt (x : Reg) (s : State) : Outcome State Fault Refusal := .next (s.writeV x s.DT)

/-- R214 with the host's answer: "if no key is currently down, decrement PC by 2", else `V[X] <- k`. -/
def waitKeyWith (answer : Option Reg) (x : Reg) (s : State) : State :=
  match answer with
  | none => s.nextQuery.setPc (s.pc - 2)
  | some k => s.nextQuery.writeV x (BitVec.ofNat 8 k.val)

/-- R214. -/
def execLdVxK (x : Reg) (s : State) : Outcome State Fault Refusal := .next (waitKeyWith s.askFirstKey x s)

/-- R215. -/
def execLdDtVx (x : Reg) (s : State) : Outcome State Fault Refusal := .next (s.setDT (s.readV x))

/-- R216. -/
def execLdStVx (x : Reg) (s : State) : Outcome State Fault Refusal := .next (s.setST (s.readV x))

end Sys2Proof.Machine
end

