-- ==== Sys2Proof/Machine/Step.lean ====
section
/-!
DEFINITION. One step is one `cycle` transaction (spec/30_encoding.md R96). The host's other transactions are in
HostPort.lean.
-/

namespace Sys2Proof.Machine

/-- R96: the whole cycle. A cycle on a latched fault has no step (R307); a cycle that raises a fault answers the state with
the fault latched (R304, R305). -/
def step (s : State) : Host.Outcome State Fault Refusal :=
  match s.fault with
  | some r => .fault (.halted r)
  | none =>
    match s.prefetchFault with
    | some r => .next (s.raise r.kind r.pcFetch r.opcode r.addr)
    | none =>
      match decode s.fetchWord with
      | .ok i => exec i s.advance
      | .error e => .next (s.advance.raiseIn (rejectKind e) s.fetchWord none)

/-- The host's load of one instruction: the word's bytes at `pc`, high byte first (R64), with what the fetch needs: a ROM
loaded (R90), no fault latched (R307) and a `pc` that a fetch can read from (R91; the entry point where it is not). -/
def State.withFetchWord (s : State) (nbits w : Nat) : State :=
  let pc := if rangeOk s.pc.toNat 2 then s.pc else 0x200#16
  { s with
    pc := pc
    mem := s.mem.writeBytes pc.toNat (wordBytes (tableWord nbits w))
    romLoaded := true
    fault := none }

end Sys2Proof.Machine
end

