-- ==== Sys2Proof/Machine/HostPort.lean ====
section
/-!
DEFINITION. The transactions the host can issue (spec/70_reset_and_hazards.md R420): `cycle`, which is `step`, and the
others, each one indivisible (R421). Any order is allowed (R219, R427).
-/

namespace Sys2Proof.Machine

/-- `tick_timers` (R217): each timer down by 1, floored at 0. Not gated by `rom_loaded` or `fault`. -/
def State.tickTimers (s : State) : State :=
  { s with
    DT := if s.DT = 0 then 0 else s.DT - 1
    ST := if s.ST = 0 then 0 else s.ST - 1 }

/-- `load_rom(bytes)` (R67): none is the error InvalidRomSize, and then nothing changes. -/
def State.loadRom (s : State) (bytes : List Byte) : Option State :=
  if bytes.length > Config.memSize - Config.romBase then none
  else some { s.memWrite Config.romBase bytes with romLoaded := true }

/-- `take_redraw` (R423): the bit as it was, and the bit cleared. -/
def State.takeRedraw (s : State) : State × Bool := ({ s with redraw := false }, s.redraw)

/-- `check_beep` (R218). -/
def State.checkBeep (s : State) : Bool := s.ST != 0

/-- `read_display` (R422): the pixels, in the layout of `Grid`, the model's own choice (notes/assumptions/17.md). -/
def State.readDisplay (s : State) : Grid := s.pix

/-- `read_fault` (R420). -/
def State.readFault (s : State) : Option FaultRecord := s.fault

/-- The code of a fault kind, as the host reads it (R300's table, decision D22). -/
def FaultKind.code : FaultKind → Nat
  | .missingRom => 1
  | .invalidRamAddress => 2
  | .invalidOpcode => 3
  | .unknownOpcode => 4
  | .stackOverflow => 5
  | .stackUnderflow => 6
  | .invalidRomSize => 7
  | .keyIndexOutOfRange => 8

/-- The transactions of R420. -/
inductive Transaction
  | cycle
  | tickTimers
  | loadRom (bytes : List Byte)
  | reset
  | readDisplay
  | takeRedraw
  | checkBeep
  | readFault
deriving DecidableEq, Repr

/-- What a transaction returns to the host (R420). -/
inductive Reply
  /-- Done; `cycle`, `load_rom`, and the transactions that return nothing. -/
  | ok
  /-- `cycle` reports the fault it raised (R304). -/
  | raised (r : FaultRecord)
  /-- `cycle` on a latched fault: no step (R307). -/
  | noStep
  /-- `load_rom`'s error (R67, R309). -/
  | invalidRomSize
  | display (g : Grid)
  | wasRedraw (b : Bool)
  | beep (b : Bool)
  | faultIs (r : Option FaultRecord)
deriving DecidableEq, Repr

/-- What `cycle` reports of the state it leaves: the fault it raised, or ok (R304). -/
def cycleReply (t : State) : Reply :=
  match t.fault with
  | none => .ok
  | some r => .raised r

/-- One transaction: the state after it and the host's result (R420). -/
def State.perform (s : State) : Transaction → State × Reply
  | .cycle =>
    match step s with
    | .next t => (t, cycleReply t)
    | .fault _ => (s, .noStep)
    | .refused _ => (s, .noStep)
  | .tickTimers => (s.tickTimers, .ok)
  | .loadRom bytes =>
    match s.loadRom bytes with
    | some t => (t, .ok)
    | none => (s, .invalidRomSize)
  | .reset => (s.resetCore, .ok)
  | .readDisplay => (s, .display s.readDisplay)
  | .takeRedraw => (s.takeRedraw.1, .wasRedraw s.takeRedraw.2)
  | .checkBeep => (s, .beep s.checkBeep)
  | .readFault => (s, .faultIs s.readFault)

/-- A schedule of transactions, in order; the host chooses it freely (R219, R427). -/
def State.performAll (s : State) : List Transaction → State
  | [] => s
  | t :: ts => (s.perform t).1.performAll ts

/-- The driver's nominal frame (R403, R219): `CYCLES_PER_FRAME` cycles, then the redraw query, then one tick. A convention of
the host: no rule of the core depends on it. -/
def nominalFrame : List Transaction :=
  List.replicate Config.cyclesPerFrame .cycle ++ [.takeRedraw, .tickTimers]

end Sys2Proof.Machine
end

