-- ==== Sys2Proof/Safety.lean ====
section
/-!
DEFINITION. What counts as a safe run: the states the host can bring the core to (spec/70_reset_and_hazards.md R403, R427),
and the invariant of the core's state that every transaction keeps (R36, R39, R60, R300).
-/

namespace Sys2Proof.Machine

/-- R300's table: which fields of a latched record are present. `UnknownOpcode` and `InvalidRomSize` are never latched
(R89, R309). -/
def FaultRecord.wf (r : FaultRecord) : Bool :=
  match r.kind with
  | .missingRom => r.opcode.isNone && r.addr.isNone
  | .invalidRamAddress => r.addr.isSome && (r.opcode.isSome || r.addr == some r.pcFetch)
  | .invalidOpcode => r.opcode.isSome && r.addr.isNone
  | .unknownOpcode => false
  | .stackOverflow => r.opcode.isSome && r.addr.isNone
  | .stackUnderflow => r.opcode.isSome && r.addr.isNone
  | .invalidRomSize => false
  | .keyIndexOutOfRange => r.opcode.isSome && r.addr.isNone

/-- The fault latch holds nothing, or a record of R300's table; and a fault other than MissingRom needs a loaded ROM (R303). -/
def State.faultOk (s : State) : Bool :=
  match s.fault with
  | none => true
  | some r => r.wf && (s.romLoaded || decide (r.kind = .missingRom))

/-- The invariant: memory is canonical (R60); `pc` is at most 0x10FE and every stack entry at most 4096 (R36); the latch is
as R300 says. -/
structure State.Inv (s : State) : Prop where
  memWf   : s.mem.wf = true
  pcLe    : s.pc.toNat ≤ 0x10FE
  stackLe : ∀ j : Fin 16, (s.stack[j.val]).toNat ≤ 4096
  faultWf : s.faultOk = true

/-- The states the host can bring the core to, by any schedule of transactions (R427). -/
inductive Reachable : State → Prop
  | construct : Reachable State.reset
  | perform {s : State} (t : Transaction) : Reachable s → Reachable (s.perform t).1

/-- Nothing has ended the run: no fault is latched (R413). -/
def State.running (s : State) : Bool := s.fault.isNone

end Sys2Proof.Machine
end

