-- ==== Sys2Proof/Certificates/Slice0/Obligations.lean ====
section
/-!
DEFINITION. The statements. Each is about every state unless it says otherwise; `s` in a statement about `exec` is a state
during execution, so `s.pc = a + 2` for the fetch address `a` (spec/10_state.md R33) and `s.pc - 2` is `a`.
A next state written `{ s with … }` says also that nothing else changes. `draws` is the model's own counter of host
queries (notes/assumptions/4.md), no register of the spec.
-/

namespace Sys2Proof.Claims

open Sys2Proof.Machine

/-- The word with the hexadecimal digits `o x y n` (R81). -/
def hexWord (o x y n : Nat) : Word := BitVec.ofNat 16 (0x1000 * o + 0x100 * x + 0x10 * y + n)

/-- The word with the category digit `o` and the 12 bits of `nnn` below it (R81, format `NNN`). -/
def wordNNN (o : Nat) (nnn : Addr12) : Word := BitVec.ofNat 16 (0x1000 * o + nnn.toNat)

/-- The word with the category digit `o`, then `x`, then the byte `nn` (R81, formats `XNN` and `X`). -/
def wordXNN (o : Nat) (x : Reg) (nn : Nat) : Word := BitVec.ofNat 16 (0x1000 * o + 0x100 * x.val + nn)

/-- The state in which the instruction at fetch address `s.pc - 2`, with the word `op`, has raised `k`: the record of R300
is latched and nothing else has changed (R304, R305). That the fetch address is `s.pc - 2` is deduced from R33,
notes/assumptions/9.md. -/
def raised (s : State) (k : FaultKind) (op : Word) (addr : Option Word) : State :=
  { s with fault := some { kind := k, pcFetch := s.pc - 2, opcode := some op, addr := addr } }

/-- R32's column "writes", with R31's: the registers an instruction writes. -/
def writesReg : Instr → Reg → Bool
  | .ldImm x _, z | .addImm x _, z | .ldReg x _, z | .orReg x _, z | .andReg x _, z | .xorReg x _, z
  | .rnd x _, z | .ldVxDt x, z | .ldVxK x, z => z == x
  | .addReg x _, z | .sub x _, z | .shr x _, z | .subn x _, z | .shl x _, z => z == x || z == 15
  | .drw _ _ _, z => z == 15
  | .ldVxMem x, z => decide (z.val ≤ x.val)
  | .sys _, _ | .cls, _ | .ret, _ | .jp _, _ | .call _, _ | .seImm _ _, _ | .sneImm _ _, _ | .seReg _ _, _
  | .sneReg _ _, _ | .ldI _, _ | .jpV0 _, _ | .skp _, _ | .sknp _, _ | .ldDtVx _, _ | .ldStVx _, _ | .addIVx _, _
  | .ldFVx _, _ | .ldBVx _, _ | .ldMemVx _, _ => false

/-- R37: ANNN, FX1E and FX29 write `I`. -/
def writesI : Instr → Bool
  | .ldI _ | .addIVx _ | .ldFVx _ => true
  | _ => false

/-- R39: only 2NNN pushes and only 00EE pops. -/
def usesStack : Instr → Bool
  | .call _ | .ret => true
  | _ => false

/-- R43, R41: only 00E0 and DXYN write the display and `redraw`. -/
def writesDisplay : Instr → Bool
  | .cls | .drw _ _ _ => true
  | _ => false

/-- R61: how many bytes an instruction stores, from address `I` up. -/
def storeLength : Instr → Nat
  | .ldBVx _ => 3
  | .ldMemVx x => x.val + 1
  | _ => 0

/-- The bit of sprite `sprite` that lands on pixel `(x, y)` when its anchor is `(xa, ya)`: the anchor wraps (R181), what
falls beyond column 63 or row 31 is dropped (R182, R183), and bit 7 of a byte is its leftmost pixel (R180). -/
def spriteBit (sprite : List Byte) (xa ya : Byte) (x : Fin 64) (y : Fin 32) : Bool :=
  decide (xa.toNat % 64 ≤ x.val) && decide (x.val < xa.toNat % 64 + 8) && decide (ya.toNat % 32 ≤ y.val) &&
    (sprite.getD (y.val - ya.toNat % 32) 0#8).getLsbD (7 - (x.val - xa.toNat % 64))

/-- R301's table: the kinds an instruction can raise of its own. -/
def canRaise : Instr → FaultKind → Bool
  | .ret, .stackUnderflow => true
  | .call _, .stackOverflow => true
  | .drw _ _ _, .invalidRamAddress | .ldBVx _, .invalidRamAddress => true
  | .ldMemVx _, .invalidRamAddress | .ldVxMem _, .invalidRamAddress => true
  | .skp _, .keyIndexOutOfRange | .sknp _, .keyIndexOutOfRange => true
  | .sys _, .invalidOpcode => true
  | _, _ => false

/-- R34's table: `pc` after an instruction that raises nothing. -/
def pcAfter (i : Instr) (s : State) : Word :=
  match i with
  | .jp nnn | .call nnn => nnn.setWidth 16
  | .ret => s.stack[s.sp.val - 1]'(by omega)
  | .jpV0 nnn => BitVec.ofNat 16 ((s.readV 0).toNat + nnn.toNat)
  | .seImm x nn => if s.readV x = nn then s.pc + 2 else s.pc
  | .sneImm x nn => if s.readV x = nn then s.pc else s.pc + 2
  | .seReg x y => if s.readV x = s.readV y then s.pc + 2 else s.pc
  | .sneReg x y => if s.readV x = s.readV y then s.pc else s.pc + 2
  | .skp x => if s.askKeyDown (Fin.ofNat 16 (s.readV x).toNat) then s.pc + 2 else s.pc
  | .sknp x => if s.askKeyDown (Fin.ofNat 16 (s.readV x).toNat) then s.pc else s.pc + 2
  | .ldVxK _ => if s.askFirstKey = none then s.pc - 2 else s.pc
  | _ => s.pc

/-- A cycle of `s` gets as far as its fetch (R90, R91, R307): no fault latched, a ROM loaded, two bytes at `pc`. -/
def fetches (s : State) : Prop := s.fault = none ∧ s.romLoaded = true ∧ s.pc.toNat ≤ 4094

/-- The words of the invalid encodings: R85 (family 8), R86 (E), R87 (F), R88 (5 and 9). -/
def invalidWord (op : Word) : Prop :=
  (op.toNat / 4096 = 5 ∧ op.toNat % 16 ≠ 0) ∨
  (op.toNat / 4096 = 9 ∧ op.toNat % 16 ≠ 0) ∨
  (op.toNat / 4096 = 8 ∧ op.toNat % 16 ∈ [0x8, 0x9, 0xA, 0xB, 0xC, 0xD, 0xF]) ∨
  (op.toNat / 4096 = 14 ∧ op.toNat % 256 ∉ [0x9E, 0xA1]) ∨
  (op.toNat / 4096 = 15 ∧ op.toNat % 256 ∉ [0x07, 0x0A, 0x15, 0x18, 0x1E, 0x29, 0x33, 0x55, 0x65])

end Sys2Proof.Claims

open Sys2Proof Sys2Proof.Machine Sys2Proof.Claims

/-! ## Control flow -/

/-- R101: SYS always raises InvalidOpcode, recorded with its fetch address and its word; 0x0000 is SYS. The state left by
the raise (pc, everything else) is the spec's own decision D14 (60_exceptions.md), and that raising answers a next state is
the model's reading, notes/assumptions/1.md. -/
def Obligations.SysRaisesInvalidOpcode : Prop :=
  (∀ nnn : Addr12, nnn ≠ 0x0E0#12 → nnn ≠ 0x0EE#12 → decode (wordNNN 0 nnn) = .ok (.sys nnn)) ∧
  ∀ (nnn : Addr12) (s : State), exec (.sys nnn) s = .next (raised s .invalidOpcode (wordNNN 0 nnn) none)

/-- R102: RET pops `pc`; with an empty stack it raises StackUnderflow. The state left by the raise (pc, everything else) is
the spec's own decision D14 (60_exceptions.md), and that raising answers a next state is the model's reading,
notes/assumptions/1.md. Which slot of the stack is popped is the spec's general knowledge, notes/assumptions/12.md
(PRESUMED); R39 makes only the last-in-first-out order normative. -/
def Obligations.RetPopsReturnAddress : Prop :=
  decode 0x00EE#16 = .ok .ret ∧
  (∀ (s : State) (k : Fin 16), s.sp.val = k.val + 1 →
    exec .ret s = .next { s with sp := ⟨k.val, by omega⟩, pc := s.stack[k.val] }) ∧
  ∀ s : State, s.sp.val = 0 → exec .ret s = .next (raised s .stackUnderflow 0x00EE#16 none)

/-- R103: JP sets `pc`, and only `pc`. -/
def Obligations.JpSetsPc : Prop :=
  ∀ (nnn : Addr12) (s : State),
    decode (wordNNN 1 nnn) = .ok (.jp nnn) ∧ exec (.jp nnn) s = .next { s with pc := BitVec.ofNat 16 nnn.toNat }

/-- R104: CALL pushes `a + 2` and jumps; with a full stack it raises StackOverflow. The state left by the raise (pc,
everything else) is the spec's own decision D14 (60_exceptions.md), and that raising answers a next state is the model's
reading, notes/assumptions/1.md. Which slot of the stack is written is the spec's general knowledge, notes/assumptions/12.md
(PRESUMED); R39 makes only the last-in-first-out order normative. -/
def Obligations.CallPushesReturnAddress : Prop :=
  (∀ nnn : Addr12, decode (wordNNN 2 nnn) = .ok (.call nnn)) ∧
  (∀ (nnn : Addr12) (s : State) (k : Fin 16), s.sp.val = k.val →
    exec (.call nnn) s = .next
      { s with stack := s.stack.set k.val s.pc, sp := ⟨k.val + 1, by omega⟩, pc := BitVec.ofNat 16 nnn.toNat }) ∧
  ∀ (nnn : Addr12) (s : State), s.sp.val = 16 → exec (.call nnn) s = .next (raised s .stackOverflow (wordNNN 2 nnn) none)

/-- R105, R106: the skips on an immediate. -/
def Obligations.SkipsOnImmediate : Prop :=
  ∀ (x : Reg) (nn : Byte) (s : State),
    decode (wordXNN 3 x nn.toNat) = .ok (.seImm x nn) ∧ decode (wordXNN 4 x nn.toNat) = .ok (.sneImm x nn) ∧
    exec (.seImm x nn) s = .next (if s.V[x.val] = nn then { s with pc := s.pc + 2 } else s) ∧
    exec (.sneImm x nn) s = .next (if s.V[x.val] = nn then s else { s with pc := s.pc + 2 })

/-- R107, R108: the skips on two registers. -/
def Obligations.SkipsOnRegisters : Prop :=
  ∀ (x y : Reg) (s : State),
    decode (hexWord 5 x y 0) = .ok (.seReg x y) ∧ decode (hexWord 9 x y 0) = .ok (.sneReg x y) ∧
    exec (.seReg x y) s = .next (if s.V[x.val] = s.V[y.val] then { s with pc := s.pc + 2 } else s) ∧
    exec (.sneReg x y) s = .next (if s.V[x.val] = s.V[y.val] then s else { s with pc := s.pc + 2 })

/-- R109: the sum is exact (at most 0x10FE), of V0 and never of VX, and not masked. That the sum is not masked is the spec's
own decision D8. -/
def Obligations.JpV0AddsV0Unmasked : Prop :=
  ∀ (nnn : Addr12) (s : State),
    decode (wordNNN 0xB nnn) = .ok (.jpV0 nnn) ∧
    ∃ t : State, exec (.jpV0 nnn) s = .next t ∧ t.pc.toNat = (s.V[0]).toNat + nnn.toNat ∧ t = { s with pc := t.pc }

/-- R39, R100: RET after CALL comes back to the word after the CALL, with the stack's live entries as they were. That the
live entries are the slots below `sp` is the spec's general knowledge, notes/assumptions/12.md (PRESUMED); R39 makes only
the last-in-first-out order normative. -/
def Obligations.CallThenRetReturns : Prop :=
  ∀ (nnn : Addr12) (s : State), s.sp.val < 16 →
    ∃ t u : State, exec (.call nnn) s = .next t ∧ exec .ret t = .next u ∧ u.pc = s.pc ∧ u.sp = s.sp ∧
      (∀ j : Fin 16, j.val < s.sp.val → u.stack[j.val] = s.stack[j.val])

/-- R103's corner case: a jump to its own address repeats forever, changing nothing. -/
def Obligations.JumpToSelfIdles : Prop :=
  ∀ s : State, fetches s → s.fetchWord.toNat = 0x1000 + s.pc.toNat → step s = .next s

/-! ## Immediates, index load, random -/

/-- R130, R132: the loads of an immediate. -/
def Obligations.LoadsImmediate : Prop :=
  ∀ (x : Reg) (nn : Byte) (nnn : Addr12) (s : State),
    decode (wordXNN 6 x nn.toNat) = .ok (.ldImm x nn) ∧ decode (wordNNN 0xA nnn) = .ok (.ldI nnn) ∧
    exec (.ldImm x nn) s = .next { s with V := s.V.set x.val nn } ∧
    exec (.ldI nnn) s = .next { s with I := BitVec.ofNat 16 nnn.toNat }

/-- R131: ADD VX, NN wraps and leaves VF alone unless it is the destination. -/
def Obligations.AddImmediateWraps : Prop :=
  ∀ (x : Reg) (nn : Byte) (s : State),
    decode (wordXNN 7 x nn.toNat) = .ok (.addImm x nn) ∧
    exec (.addImm x nn) s =
      .next { s with V := s.V.set x.val (BitVec.ofNat 8 (((s.V[x.val]).toNat + nn.toNat) % 256)) }

/-- R133: RND stores the host's byte masked by NN; the bits outside NN are 0 whatever the byte is. The counter `draws` is
the model's choice, notes/assumptions/4.md. -/
def Obligations.RndMasksRandomByte : Prop :=
  ∀ (x : Reg) (nn : Byte) (s : State),
    decode (wordXNN 0xC x nn.toNat) = .ok (.rnd x nn) ∧
    exec (.rnd x nn) s =
      .next { s with V := s.V.set x.val (s.askRandom &&& nn), draws := s.draws + 1 } ∧
    (∀ r : Byte, rndWith r x nn s = { s with V := s.V.set x.val (r &&& nn), draws := s.draws + 1 }) ∧
    ∀ t : State, exec (.rnd x nn) s = .next t → t.V[x.val] &&& ~~~nn = 0#8

/-! ## The ALU family -/

/-- R152, R153, R154, R155: copy and logic, VF not written except as the destination. That OR, AND and XOR leave VF alone is
the spec's own decision D5. -/
def Obligations.CopyAndLogicLeaveFlag : Prop :=
  ∀ (x y : Reg) (s : State),
    decode (hexWord 8 x y 0) = .ok (.ldReg x y) ∧ decode (hexWord 8 x y 1) = .ok (.orReg x y) ∧
    decode (hexWord 8 x y 2) = .ok (.andReg x y) ∧ decode (hexWord 8 x y 3) = .ok (.xorReg x y) ∧
    exec (.ldReg x y) s = .next { s with V := s.V.set x.val s.V[y.val] } ∧
    exec (.orReg x y) s = .next { s with V := s.V.set x.val (s.V[x.val] ||| s.V[y.val]) } ∧
    exec (.andReg x y) s = .next { s with V := s.V.set x.val (s.V[x.val] &&& s.V[y.val]) } ∧
    exec (.xorReg x y) s = .next { s with V := s.V.set x.val (s.V[x.val] ^^^ s.V[y.val]) }

/-- R156: ADD wraps, and VF, written last, is 1 iff the wrapped result is less than the old VX. That VF is written last is
the spec's own decision D4. -/
def Obligations.AddSetsCarry : Prop :=
  ∀ (x y : Reg) (s : State),
    decode (hexWord 8 x y 4) = .ok (.addReg x y) ∧
    exec (.addReg x y) s = .next { s with
      V := (s.V.set x.val (BitVec.ofNat 8 (((s.V[x.val]).toNat + (s.V[y.val]).toNat) % 256))).set 15
        (if ((s.V[x.val]).toNat + (s.V[y.val]).toNat) % 256 < (s.V[x.val]).toNat then 1#8 else 0#8) }

/-- R161: the 8XY4 flag, a wraparound comparison, is the carry out of bit 7 for every operand pair. -/
def Obligations.CarryFlagIsCarryOut : Prop :=
  ∀ a b : Byte, carryFlag a b = true ↔ 256 ≤ a.toNat + b.toNat

/-- R157, R159: the two subtractions are distinct; VF, written last, is 1 iff no borrow occurred. That VF is written last is
the spec's own decision D4. -/
def Obligations.SubtractionsSetNotBorrow : Prop :=
  ∀ (x y : Reg) (s : State),
    decode (hexWord 8 x y 5) = .ok (.sub x y) ∧ decode (hexWord 8 x y 7) = .ok (.subn x y) ∧
    exec (.sub x y) s = .next { s with
      V := (s.V.set x.val (BitVec.ofInt 8 ((s.V[x.val]).toNat - (s.V[y.val]).toNat : Int))).set 15
        (if (s.V[y.val]).toNat ≤ (s.V[x.val]).toNat then 1#8 else 0#8) } ∧
    exec (.subn x y) s = .next { s with
      V := (s.V.set x.val (BitVec.ofInt 8 ((s.V[y.val]).toNat - (s.V[x.val]).toNat : Int))).set 15
        (if (s.V[x.val]).toNat ≤ (s.V[y.val]).toNat then 1#8 else 0#8) }

/-- R158, R160: the shifts by one, for either value of SHIFT_QUIRK_COPY_VY; VF, written last, is the bit shifted out. The
parameter is open (D6, notes/assumptions/2.md); that VF is written last is the spec's own decision D4. -/
def Obligations.ShiftsSetShiftedOutBit : Prop :=
  ∀ (x y : Reg) (s : State),
    decode (hexWord 8 x y 6) = .ok (.shr x y) ∧ decode (hexWord 8 x y 0xE) = .ok (.shl x y) ∧
    exec (.shr x y) s = .next (shrWith shiftCopiesVy x y s) ∧
    exec (.shl x y) s = .next (shlWith shiftCopiesVy x y s) ∧
    ∀ quirk : Bool,
      shrWith quirk x y s = { s with
        V := (s.V.set x.val (BitVec.ofNat 8 ((if quirk then s.V[y.val] else s.V[x.val]).toNat / 2))).set 15
          (BitVec.ofNat 8 ((if quirk then s.V[y.val] else s.V[x.val]).toNat % 2)) } ∧
      shlWith quirk x y s = { s with
        V := (s.V.set x.val (BitVec.ofNat 8 ((if quirk then s.V[y.val] else s.V[x.val]).toNat * 2 % 256))).set 15
          (BitVec.ofNat 8 ((if quirk then s.V[y.val] else s.V[x.val]).toNat / 128)) }

/-- R151: with X = F the flag overwrites the result, for each of the five flag-writing instructions; the flags are those of
R156-R160, the carry as R161 gives it. The order of the two writes is the spec's own decision D4. The SHR and SHL clauses
hold for either value of the open parameter SHIFT_QUIRK_COPY_VY (D6, notes/assumptions/2.md), through `shiftCopiesVy`. -/
def Obligations.FlagOverwritesResultInVF : Prop :=
  ∀ (y : Reg) (s : State),
    (∃ t, exec (.addReg 15 y) s = .next t ∧ t.V[15] = if 256 ≤ (s.V[15]).toNat + (s.V[y.val]).toNat then 1#8 else 0#8) ∧
    (∃ t, exec (.sub 15 y) s = .next t ∧ t.V[15] = if (s.V[y.val]).toNat ≤ (s.V[15]).toNat then 1#8 else 0#8) ∧
    (∃ t, exec (.subn 15 y) s = .next t ∧ t.V[15] = if (s.V[15]).toNat ≤ (s.V[y.val]).toNat then 1#8 else 0#8) ∧
    (∃ t, exec (.shr 15 y) s = .next t ∧
      t.V[15] = BitVec.ofNat 8 ((if shiftCopiesVy then s.V[y.val] else s.V[15]).toNat % 2)) ∧
    (∃ t, exec (.shl 15 y) s = .next t ∧
      t.V[15] = BitVec.ofNat 8 ((if shiftCopiesVy then s.V[y.val] else s.V[15]).toNat / 128))

/-- R162: the flag identities. -/
def Obligations.FlagIdentities : Prop :=
  ∀ a b : Byte,
    ((flagByte (notBorrow a b)).toNat = 1 - (if a.toNat < b.toNat then 1 else 0)) ∧
    (∀ (x y : Reg) (s : State), x ≠ y → x ≠ 15 → y ≠ 15 →
      ∃ t u v : State, exec (.subn x y) s = .next t ∧ exec (.sub y x) s = .next u ∧ exec (.sub x y) s = .next v ∧
        t.V[15] = u.V[15] ∧ v.V[x.val] + t.V[x.val] = 0#8) ∧
    (flagByte (shrFlag a)).toNat = a.toNat % 2 ∧ (flagByte (shlFlag a)).toNat = a.toNat / 128

/-! ## The display -/

/-- R186, R187: CLS clears every pixel, sets `redraw`, and touches no register. That CLS sets redraw is the spec's own
decision D20. -/
def Obligations.ClsClearsDisplay : Prop :=
  decode 0x00E0#16 = .ok .cls ∧
  ∀ s : State, ∃ g : Grid, exec .cls s = .next { s with pix := g, redraw := true } ∧
    ∀ (x : Fin 64) (y : Fin 32), g.pix x y = false

/-- R188: DRW draws the N bytes at `I` at the anchor (VX, VY), read before VF is written; VF is the collision. Where the
range runs off the end of memory it raises InvalidRamAddress with no effect. The state left by the raise (pc, everything
else) is the spec's own decision D14 (60_exceptions.md), and that raising answers a next state is the model's reading,
notes/assumptions/1.md. -/
def Obligations.DrwDrawsOrRaises : Prop :=
  (∀ x y n : Fin 16, decode (hexWord 0xD x y n) = .ok (.drw x y n)) ∧
  (∀ (x y n : Fin 16) (s : State), s.I.toNat + n.val ≤ 4096 →
    ∃ (sprite : List Byte), sprite.length = n.val ∧
      (∀ k : Fin sprite.length, sprite[k] = s.mem.read (s.I.toNat + k.val)) ∧
      exec (.drw x y n) s = .next { s with
        pix := (drawSprite sprite s.V[x.val] s.V[y.val] s.pix).1, redraw := true,
        V := s.V.set 15 (if (drawSprite sprite s.V[x.val] s.V[y.val] s.pix).2 then 1#8 else 0#8) }) ∧
  ∀ (x y n : Fin 16) (s : State), 4096 < s.I.toNat + n.val →
    exec (.drw x y n) s = .next (raised s .invalidRamAddress (hexWord 0xD x y n) (some s.I))

/-- R181, R182, R183, R184: the draw algorithm's loops give, at every pixel, the XOR of the old pixel with the sprite bit
that lands there (the anchor wraps, the rest is clipped at the right and bottom edges), and the collision bit is 1 iff some
surviving bit erased a set pixel. -/
def Obligations.DrawIsClippedXor : Prop :=
  ∀ (sprite : List Byte) (xa ya : Byte) (g : Grid),
    (∀ (x : Fin 64) (y : Fin 32),
      (drawSprite sprite xa ya g).1.pix x y = (g.pix x y ^^ spriteBit sprite xa ya x y)) ∧
    ((drawSprite sprite xa ya g).2 = true ↔
      ∃ (x : Fin 64) (y : Fin 32), g.pix x y = true ∧ spriteBit sprite xa ya x y = true)

/-- The source's §8 property (95_test_vectors.md W9): drawing a sprite twice at one anchor gives the display back, and on a
display clear under it the second draw collides iff a surviving sprite bit is set. -/
def Obligations.DrawTwiceRestores : Prop :=
  ∀ (sprite : List Byte) (xa ya : Byte) (g : Grid),
    (drawSprite sprite xa ya (drawSprite sprite xa ya g).1).1 = g ∧
    ((∀ (x : Fin 64) (y : Fin 32), spriteBit sprite xa ya x y = true → g.pix x y = false) →
      ((drawSprite sprite xa ya g).2 = false ∧
       ((drawSprite sprite xa ya (drawSprite sprite xa ya g).1).2 = true ↔
         ∃ (x : Fin 64) (y : Fin 32), spriteBit sprite xa ya x y = true)))

/-! ## Keys and timers -/

/-- R211: SKP, for every answer of the host. The state left by the raise (pc, everything else) is the spec's own decision
D14 (60_exceptions.md), and that raising answers a next state is the model's reading, notes/assumptions/1.md. The fault kind
is the spec's own decision D17; the counter `draws` is the model's choice, notes/assumptions/4.md. -/
def Obligations.SkpSkipsWhenDown : Prop :=
  (∀ x : Reg, decode (wordXNN 0xE x 0x9E) = .ok (.skp x)) ∧
  (∀ (x k : Reg) (s : State), (s.V[x.val]).toNat = k.val →
    exec (.skp x) s = .next { s with draws := s.draws + 1, pc := if s.askKeyDown k then s.pc + 2 else s.pc }) ∧
  (∀ (x : Reg) (s : State), 15 < (s.V[x.val]).toNat →
    exec (.skp x) s = .next (raised s .keyIndexOutOfRange (wordXNN 0xE x 0x9E) none)) ∧
  ∀ (down : Reg → Bool) (x k : Reg) (s : State), (s.V[x.val]).toNat = k.val →
    skpWith down x s = { s with draws := s.draws + 1, pc := if down k then s.pc + 2 else s.pc }

/-- R212: SKNP, for every answer of the host. The state left by the raise (pc, everything else) is the spec's own decision
D14 (60_exceptions.md), and that raising answers a next state is the model's reading, notes/assumptions/1.md. The fault kind
is the spec's own decision D17; the counter `draws` is the model's choice, notes/assumptions/4.md. -/
def Obligations.SknpSkipsWhenUp : Prop :=
  (∀ x : Reg, decode (wordXNN 0xE x 0xA1) = .ok (.sknp x)) ∧
  (∀ (x k : Reg) (s : State), (s.V[x.val]).toNat = k.val →
    exec (.sknp x) s = .next { s with draws := s.draws + 1, pc := if s.askKeyDown k then s.pc else s.pc + 2 }) ∧
  (∀ (x : Reg) (s : State), 15 < (s.V[x.val]).toNat →
    exec (.sknp x) s = .next (raised s .keyIndexOutOfRange (wordXNN 0xE x 0xA1) none)) ∧
  ∀ (down : Reg → Bool) (x k : Reg) (s : State), (s.V[x.val]).toNat = k.val →
    sknpWith down x s = { s with draws := s.draws + 1, pc := if down k then s.pc else s.pc + 2 }

/-- R214: LD VX, K with each answer of the host: it rewinds `pc` to its own address, or stores the key's index. That V[X]
takes k is the spec's own decision D15; the counter `draws` is the model's choice, notes/assumptions/4.md. -/
def Obligations.LdVxKWaitsOrStores : Prop :=
  ∀ (x : Reg) (s : State),
    decode (wordXNN 0xF x 0x0A) = .ok (.ldVxK x) ∧
    exec (.ldVxK x) s = .next (match s.askFirstKey with
      | none => { s with draws := s.draws + 1, pc := s.pc - 2 }
      | some k => { s with draws := s.draws + 1, V := s.V.set x.val (BitVec.ofNat 8 k.val) }) ∧
    waitKeyWith none x s = { s with draws := s.draws + 1, pc := s.pc - 2 } ∧
    ∀ k : Reg, waitKeyWith (some k) x s = { s with draws := s.draws + 1, V := s.V.set x.val (BitVec.ofNat 8 k.val) }

/-- R213, R215, R216: the instructions that read DT, write DT and write ST. -/
def Obligations.TimerRegisterMoves : Prop :=
  ∀ (x : Reg) (s : State),
    decode (wordXNN 0xF x 0x07) = .ok (.ldVxDt x) ∧ decode (wordXNN 0xF x 0x15) = .ok (.ldDtVx x) ∧
    decode (wordXNN 0xF x 0x18) = .ok (.ldStVx x) ∧
    exec (.ldVxDt x) s = .next { s with V := s.V.set x.val s.DT } ∧
    exec (.ldDtVx x) s = .next { s with DT := s.V[x.val] } ∧
    exec (.ldStVx x) s = .next { s with ST := s.V[x.val] }

/-- R220: a cycle changes DT only through FX15 and ST only through FX18; the value written is V[X]'s. -/
def Obligations.CycleChangesTimersOnlyByLoads : Prop :=
  ∀ s t : State, step s = .next t →
    (t.DT ≠ s.DT → ∃ x : Reg, decode s.fetchWord = .ok (.ldDtVx x) ∧ t.DT = s.V[x.val]) ∧
    (t.ST ≠ s.ST → ∃ x : Reg, decode s.fetchWord = .ok (.ldStVx x) ∧ t.ST = s.V[x.val])

/-! ## Index and block memory -/

/-- R240, R241: the index arithmetic: VF is not written, memory is not read, and FX29 takes all of V[X]. The wrap and the
untouched VF (D9) and the unmasked digit (D10) are the spec's own decisions. -/
def Obligations.IndexArithmetic : Prop :=
  ∀ (x : Reg) (s : State),
    decode (wordXNN 0xF x 0x1E) = .ok (.addIVx x) ∧ decode (wordXNN 0xF x 0x29) = .ok (.ldFVx x) ∧
    exec (.addIVx x) s = .next { s with I := BitVec.ofNat 16 ((s.I.toNat + (s.V[x.val]).toNat) % 65536) } ∧
    exec (.ldFVx x) s = .next { s with I := BitVec.ofNat 16 (0x050 + 5 * (s.V[x.val]).toNat) }

/-- R242: LD B, VX stores the three decimal digits at I, I+1, I+2 and nothing else, or raises InvalidRamAddress. The state
left by the raise (pc, everything else) is the spec's own decision D14 (60_exceptions.md), and that raising answers a next
state is the model's reading, notes/assumptions/1.md. The range check is the spec's own decision D11; `wf` is the model's
memory form, notes/assumptions/5.md. -/
def Obligations.LdBStoresDigits : Prop :=
  (∀ x : Reg, decode (wordXNN 0xF x 0x33) = .ok (.ldBVx x)) ∧
  (∀ (x : Reg) (s : State), s.mem.wf = true → s.I.toNat + 3 ≤ 4096 →
    ∃ m : Memory, exec (.ldBVx x) s = .next { s with mem := m } ∧
      (m.read s.I.toNat).toNat = (s.V[x.val]).toNat / 100 ∧
      (m.read (s.I.toNat + 1)).toNat = (s.V[x.val]).toNat / 10 % 10 ∧
      (m.read (s.I.toNat + 2)).toNat = (s.V[x.val]).toNat % 10 ∧
      ∀ a : Nat, a < s.I.toNat ∨ s.I.toNat + 3 ≤ a → m.read a = s.mem.read a) ∧
  ∀ (x : Reg) (s : State), 4096 < s.I.toNat + 3 →
    exec (.ldBVx x) s = .next (raised s .invalidRamAddress (wordXNN 0xF x 0x33) (some s.I))

/-- R243: LD [I], VX stores V0..VX from I up and nothing else, I unchanged, or raises InvalidRamAddress. The state left by
the raise (pc, everything else) is the spec's own decision D14 (60_exceptions.md), and that raising answers a next state is
the model's reading, notes/assumptions/1.md. That I is unchanged is the spec's own decision D12; `wf` is the model's memory
form, notes/assumptions/5.md. -/
def Obligations.LdMemStoresRegisters : Prop :=
  (∀ x : Reg, decode (wordXNN 0xF x 0x55) = .ok (.ldMemVx x)) ∧
  (∀ (x : Reg) (s : State), s.mem.wf = true → s.I.toNat + x.val + 1 ≤ 4096 →
    ∃ m : Memory, exec (.ldMemVx x) s = .next { s with mem := m } ∧
      (∀ i : Fin 16, i.val ≤ x.val → m.read (s.I.toNat + i.val) = s.V[i.val]) ∧
      ∀ a : Nat, a < s.I.toNat ∨ s.I.toNat + x.val + 1 ≤ a → m.read a = s.mem.read a) ∧
  ∀ (x : Reg) (s : State), 4096 < s.I.toNat + x.val + 1 →
    exec (.ldMemVx x) s = .next (raised s .invalidRamAddress (wordXNN 0xF x 0x55) (some s.I))

/-- R244: LD VX, [I] loads V0..VX from I up and nothing else, I unchanged, or raises InvalidRamAddress. The state left by
the raise (pc, everything else) is the spec's own decision D14 (60_exceptions.md), and that raising answers a next state is
the model's reading, notes/assumptions/1.md. The range check (D13) and the unchanged I (D12) are the spec's own decisions.
-/
def Obligations.LdVxLoadsRegisters : Prop :=
  (∀ x : Reg, decode (wordXNN 0xF x 0x65) = .ok (.ldVxMem x)) ∧
  (∀ (x : Reg) (s : State), s.I.toNat + x.val + 1 ≤ 4096 →
    ∃ W : Vector Byte 16, exec (.ldVxMem x) s = .next { s with V := W } ∧
      ∀ i : Fin 16, W[i.val] = if i.val ≤ x.val then s.mem.read (s.I.toNat + i.val) else s.V[i.val]) ∧
  ∀ (x : Reg) (s : State), 4096 < s.I.toNat + x.val + 1 →
    exec (.ldVxMem x) s = .next (raised s .invalidRamAddress (wordXNN 0xF x 0x65) (some s.I))

/-- Registers stored by FX55 come back by FX65, whatever the registers hold in between (R243, R244, R71). It rests on FX55
leaving `I` alone, the spec's own decision D12 (notes/assumptions/13.md). `wf` is the model's memory form,
notes/assumptions/5.md. -/
def Obligations.StoreThenLoadRestoresRegisters : Prop :=
  ∀ (x : Reg) (s : State) (W : Vector Byte 16), s.mem.wf = true → s.I.toNat + x.val + 1 ≤ 4096 →
    ∃ t u : State, exec (.ldMemVx x) s = .next t ∧ exec (.ldVxMem x) { t with V := W } = .next u ∧
      ∀ i : Fin 16, u.V[i.val] = if i.val ≤ x.val then s.V[i.val] else W[i.val]

/-- R74, R412: a store into the bytes of the very next instruction is what the next fetch reads. `wf` is the model's memory
form, notes/assumptions/5.md. -/
def Obligations.StoreIsSeenByNextFetch : Prop :=
  ∀ (x : Reg) (s : State), s.mem.wf = true → s.I.toNat + x.val + 1 ≤ 4096 → 1 ≤ x.val → s.pc = s.I →
    ∃ t : State, exec (.ldMemVx x) s = .next t ∧ t.fetchWord.toNat = (s.V[0]).toNat * 256 + (s.V[1]).toNat

/-! ## The cycle -/

/-- R90: a cycle with no ROM loaded raises MissingRom, before every other check, and changes nothing else. The state left by
the raise (pc, everything else) is the spec's own decision D14 (60_exceptions.md), and that raising answers a next state is
the model's reading, notes/assumptions/1.md. -/
def Obligations.CycleWithoutRomRaises : Prop :=
  ∀ s : State, s.fault = none → s.romLoaded = false →
    step s = .next { s with fault := some { kind := .missingRom, pcFetch := s.pc, opcode := none, addr := none } }

/-- R91: a cycle whose `pc` is 4095 or more raises InvalidRamAddress and changes nothing else. That 4095 is out of range is
the spec's own decision D2. The state left by the raise (pc, everything else) is the spec's own decision D14
(60_exceptions.md), and that raising answers a next state is the model's reading, notes/assumptions/1.md. -/
def Obligations.CycleFetchOutOfRangeRaises : Prop :=
  ∀ s : State, s.fault = none → s.romLoaded = true → 4095 ≤ s.pc.toNat →
    step s = .next
      { s with fault := some { kind := .invalidRamAddress, pcFetch := s.pc, opcode := none, addr := some s.pc } }

/-- R94, R95, R96: the fetch is big-endian, `pc` advances by 2 before executing, and the cycle executes the instruction that
the fetched word decodes to. -/
def Obligations.CycleExecutesDecodedInstruction : Prop :=
  ∀ (s : State) (op : Word) (i : Instr), fetches s →
    op.toNat = (s.mem.read s.pc.toNat).toNat * 256 + (s.mem.read (s.pc.toNat + 1)).toNat →
    decode op = .ok i → step s = exec i { s with pc := s.pc + 2 }

/-- R95, R305: a cycle that fetches an invalid word raises InvalidOpcode(a, op) after `pc` has advanced. The invalid words
of families 5 and 9 are the spec's own decision D7. The state left by the raise (pc, everything else) is the spec's own
decision D14 (60_exceptions.md), and that raising answers a next state is the model's reading, notes/assumptions/1.md. -/
def Obligations.CycleInvalidWordRaises : Prop :=
  ∀ (s : State) (op : Word), fetches s →
    op.toNat = (s.mem.read s.pc.toNat).toNat * 256 + (s.mem.read (s.pc.toNat + 1)).toNat →
    invalidWord op →
    step s = .next { s with
      pc := s.pc + 2, fault := some { kind := .invalidOpcode, pcFetch := s.pc, opcode := some op, addr := none } }

/-- R307: while a fault is latched a cycle has no step; otherwise it always has one, and it is never refused. The latch is
the spec's own decision D23; that a stopped cycle is the outcome `.fault` is the model's reading, notes/assumptions/1.md. -/
def Obligations.StepStopsExactlyWhenLatched : Prop :=
  ∀ s : State, (∀ r : FaultRecord, s.fault = some r → step s = .fault (.halted r)) ∧
    (s.fault = none → ∃ t : State, step s = .next t)

/-- R305, R300: what a cycle that raises leaves: only the latch, and `pc = a + 2` where the fetch had taken place, with
`pc_fetch` the fetch address and the opcode recorded exactly after the fetch. The state left by the raise (pc, everything
else) is the spec's own decision D14 and the record's fields are its decision D22; that raising answers a next state is the
model's reading, notes/assumptions/1.md. -/
def Obligations.RaisingCycleChangesNothingElse : Prop :=
  ∀ (s t : State) (r : FaultRecord), step s = .next t → t.fault = some r →
    t = { s with pc := if r.opcode = none then s.pc else s.pc + 2, fault := some r } ∧ r.pcFetch = s.pc

/-- R300, R301: what an instruction can raise of its own, and the record it latches. The record's fields are the spec's own
decision D22. That the fetched word is `encode i` and the fetch address is `pc - 2` is deduced from R98 and R33,
notes/assumptions/9.md (DEDUCED). -/
def Obligations.FaultsByInstruction : Prop :=
  ∀ (i : Instr) (s t : State) (r : FaultRecord), s.fault = none → exec i s = .next t → t.fault = some r →
    canRaise i r.kind = true ∧ r.pcFetch = s.pc - 2 ∧ r.opcode = some (encode i) ∧
    r.addr = if r.kind = .invalidRamAddress then some s.I else none

/-- A loaded word is what the next step runs: the host's `withFetchWord` (notes/assumptions/6.md). `withFetchWord` and `wf`
are the model's own, notes/assumptions/6.md and 5.md. -/
def Obligations.FetchedWordIsExecuted : Prop :=
  ∀ (s : State) (w : Nat) (i : Instr), s.mem.wf = true → decodeTableWord 16 w = some i →
    step (s.withFetchWord 16 w) = exec i { s.withFetchWord 16 w with pc := (s.withFetchWord 16 w).pc + 2 }

/-! ## Frames over every instruction -/

/-- R31, R32: every general register is unchanged but the ones R32's table says the instruction writes. That logic (D5) and
FX1E (D9) leave VF alone are the spec's own decisions. -/
def Obligations.RegisterFrame : Prop :=
  ∀ (i : Instr) (s t : State) (z : Reg), exec i s = .next t → writesReg i z = false → t.V[z.val] = s.V[z.val]

/-- R37, R38, R39, R40, R41, R43: every other register and the display are unchanged but by the instructions these rules
name. That FX55 and FX65 leave I alone is the spec's own decision D12. -/
def Obligations.SpecialStateFrame : Prop :=
  ∀ (i : Instr) (s t : State), exec i s = .next t →
    (writesI i = false → t.I = s.I) ∧
    ((∀ x, i ≠ .ldDtVx x) → t.DT = s.DT) ∧ ((∀ x, i ≠ .ldStVx x) → t.ST = s.ST) ∧
    (usesStack i = false → t.stack = s.stack ∧ t.sp = s.sp) ∧
    (writesDisplay i = false → t.pix = s.pix ∧ t.redraw = s.redraw) ∧
    t.romLoaded = s.romLoaded ∧
    ((∀ k, canRaise i k = false) → t.fault = s.fault)

/-- R61: every byte of memory is unchanged but the ones FX33 and FX55 store, from `I` up. `wf` is the model's memory form,
notes/assumptions/5.md. -/
def Obligations.MemoryFrame : Prop :=
  ∀ (i : Instr) (s t : State), s.mem.wf = true → exec i s = .next t →
    ∀ a : Nat, a < s.I.toNat ∨ s.I.toNat + storeLength i ≤ a → t.mem.read a = s.mem.read a

/-- R34: how each instruction that raises nothing leaves `pc`; a skip is taken under the conditions of R105-R108, R211 and
R212, and FX0A rewinds as R214 says. The host's answers that the SKP, SKNP and FX0A clauses read (`askKeyDown`,
`askFirstKey`) are free values in the model's own form, a DESIGN CHOICE, notes/assumptions/4.md. That the sum of BNNN is not
masked is the spec's own decision D8; the slot that RET pops is the spec's general knowledge, notes/assumptions/12.md. -/
def Obligations.PcAfterEachInstruction : Prop :=
  ∀ (i : Instr) (s t : State), exec i s = .next t → t.fault = none → t.pc = pcAfter i s

/-! ## Encoding -/

/-- R80, R98: decode and encode agree in both directions: a word decodes to `i` exactly when `i` is well formed and the word
is `i`'s. The bit patterns are the spec's own decision D28. -/
def Obligations.DecodeEncodeAgree : Prop :=
  ∀ (op : Word) (i : Instr), decode op = .ok i ↔ i.wellFormed = true ∧ encode i = op

/-- R85, R86, R87, R88, R89: decoding is total: a word is rejected exactly when it is one of the invalid words, always as
InvalidOpcode, so UnknownOpcode never occurs. Families 5 and 9 are the spec's own decision D7. -/
def Obligations.RejectedWordsAreTheInvalidOnes : Prop :=
  ∀ (op : Word) (e : Reject), decode op = .error e ↔ e = .invalidOpcode ∧ invalidWord op

/-- R99: the worked encoding examples, and two further words, E29E (SKP V2) and 6A7B (LD VA, 7B), of R83's table. That 5001
is invalid is the spec's own decision D7 (R88); the bit patterns other than 00E0 and 1NNN are its decision D28,
notes/assumptions/11.md. -/
def Obligations.SampleWordsDecode : Prop :=
  decodeBytes [0x00, 0xE0] = .ok (.cls, []) ∧ decodeBytes [0x12, 0x34] = .ok (.jp 0x234, []) ∧
  decodeBytes [0xA2, 0x0C] = .ok (.ldI 0x20C, []) ∧ decodeBytes [0xD0, 0x11] = .ok (.drw 0 1 1, []) ∧
  decodeBytes [0xF2, 0x65] = .ok (.ldVxMem 2, []) ∧ decodeBytes [0x80, 0xF4] = .ok (.addReg 0 15, []) ∧
  decodeBytes [0x50, 0x01] = .error .invalidOpcode ∧ decodeBytes [0x00, 0x00] = .ok (.sys 0, []) ∧
  decodeBytes [0xE2, 0x9E] = .ok (.skp 2, []) ∧ decodeBytes [0x6A, 0x7B] = .ok (.ldImm 10 0x7B, [])

/-! ## Memory -/

/-- R13: MemRead after MemWrite of the same range gives the bytes written, in order; a byte outside the range reads as
before, and the memory stays canonical. `wf` is the model's memory form, notes/assumptions/5.md. -/
def Obligations.MemReadAfterMemWrite : Prop :=
  ∀ (m : Memory) (a : Nat) (bytes : List Byte), m.wf = true → a + bytes.length ≤ 4096 →
    (m.writeBytes a bytes).readBytes a bytes.length = bytes ∧
    (∀ b : Nat, b < a ∨ a + bytes.length ≤ b → (m.writeBytes a bytes).read b = m.read b) ∧
    (m.writeBytes a bytes).wf = true

/-- Two canonical memories that read the same at every address are the same data (the model's own form of R60's array,
notes/assumptions/5.md). The form is the model's choice. -/
def Obligations.EqualMemoriesAreEqualData : Prop :=
  ∀ m m' : Memory, m.wf = true → m'.wf = true → (∀ a : Nat, a < 4096 → m.read a = m'.read a) → m = m'

/-! ## Reset and the host's transactions -/

/-- R49, R401: every piece of state at construction. (`draws` is the model's own and is not stated.) Display and redraw
(D19), fault (D23), stack entries (D24) and pc (D37) are the spec's own decisions; FONT is an open parameter
(notes/assumptions/3.md). R49 gives memory up to 0xFFF; that an address of 4096 or more, which no rule reaches, reads 0 is
the model's choice, notes/assumptions/5.md (DESIGN CHOICE). -/
def Obligations.ConstructionValues : Prop :=
  (∀ x : Reg, State.reset.V[x.val] = 0#8) ∧ State.reset.I = 0#16 ∧ State.reset.DT = 0#8 ∧ State.reset.ST = 0#8 ∧
  State.reset.pc = 0x200#16 ∧ State.reset.sp = 0 ∧ (∀ j : Fin 16, State.reset.stack[j.val] = 0#16) ∧
  State.reset.romLoaded = false ∧ State.reset.redraw = false ∧ State.reset.fault = none ∧
  (∀ (x : Fin 64) (y : Fin 32), State.reset.pix.pix x y = false) ∧
  (∀ k : Fin 80, State.reset.mem.read (0x050 + k.val) = fontByte k) ∧
  ∀ a : Nat, a < 0x050 ∨ 0x0A0 ≤ a → State.reset.mem.read a = 0#8

/-- R400, R308, R90: the `reset` transaction, from any state, gives the construction values but for the stack entries, which
it leaves alone; the cycle after it raises MissingRom. Display and redraw (D19), fault (D23), the stack entries (D24) and pc
= 0x200 (D37), so also the record's `pc_fetch`, are the spec's own decisions, and so are what the raise leaves (D14) and the
record's fields (D22); that raising answers a next state is the model's reading, notes/assumptions/1.md. The kept counter
`draws` is the model's, notes/assumptions/4.md, and so is memory's form, notes/assumptions/5.md. -/
def Obligations.ResetTransaction : Prop :=
  ∀ s : State, ∃ t : State, s.perform .reset = (t, .ok) ∧
    t = { State.reset with stack := s.stack, draws := s.draws } ∧
    step t = .next
      { t with fault := some { kind := .missingRom, pcFetch := 0x200#16, opcode := none, addr := none } }

/-- R217: a tick takes each timer down by 1, floored at 0, and changes nothing else; neither `rom_loaded` nor `fault` gates
it. That nothing gates it is the spec's own decision D33. -/
def Obligations.TickDecrementsTimers : Prop :=
  ∀ s : State, ∃ d e : Byte, s.perform .tickTimers = ({ s with DT := d, ST := e }, .ok) ∧
    d.toNat = s.DT.toNat - 1 ∧ e.toNat = s.ST.toNat - 1

/-- R67: `load_rom` copies the bytes to 0x200 up and marks the ROM loaded, other bytes and all other state unchanged; a ROM
of more than 3584 bytes is rejected with nothing changed. Bytes outside the copy, zero-length and repeated loads are the
spec's own decision D31; `wf` is the model's memory form, notes/assumptions/5.md. -/
def Obligations.LoadRomCopiesOrRejects : Prop :=
  (∀ (s : State) (rom : List Byte), s.mem.wf = true → rom.length ≤ 3584 →
    ∃ m : Memory, s.perform (.loadRom rom) = ({ s with mem := m, romLoaded := true }, .ok) ∧
      (∀ k : Fin rom.length, m.read (0x200 + k.val) = rom[k]) ∧
      ∀ a : Nat, a < 0x200 ∨ 0x200 + rom.length ≤ a → m.read a = s.mem.read a) ∧
  ∀ (s : State) (rom : List Byte), 3584 < rom.length → s.perform (.loadRom rom) = (s, .invalidRomSize)

/-- R218, R422, R423, R420: the host's reads: only `take_redraw` changes anything, and it clears `redraw` alone. That
take_redraw clears the bit is the spec's own decision D32. The layout in which the pixels are answered is the model's
choice, notes/assumptions/17.md. -/
def Obligations.HostReadsAnswer : Prop :=
  ∀ s : State,
    s.perform .takeRedraw = ({ s with redraw := false }, .wasRedraw s.redraw) ∧
    s.perform .checkBeep = (s, .beep (decide (s.ST.toNat ≠ 0))) ∧
    s.perform .readDisplay = (s, .display s.pix) ∧
    s.perform .readFault = (s, .faultIs s.fault)

/-- R304, R307: what `cycle` reports to the host: the fault it raised, ok, or that there was no step. The latch is the
spec's own decision D23; the reply `noStep` is the model's, notes/assumptions/1.md. -/
def Obligations.CycleReportsFault : Prop :=
  ∀ s : State,
    (∀ r : FaultRecord, s.fault = some r → s.perform .cycle = (s, .noStep)) ∧
    (s.fault = none → ∃ t : State, step s = .next t ∧
      s.perform .cycle = (t, match t.fault with | none => .ok | some r => .raised r))

/-! ## The invariant -/

/-- The invariant holds at construction. The invariant is the model's collection; `wf` is notes/assumptions/5.md. -/
def Obligations.InvariantHoldsAtReset : Prop := State.reset.Inv

/-- R36, R60, R300: every step keeps the invariant: memory canonical, `pc` at most 0x10FE, stack entries at most 4096, the
latch a record of R300's table. `wf` is the model's memory form, notes/assumptions/5.md; the record's fields are the spec's
own decision D22. -/
def Obligations.StepKeepsInvariant : Prop :=
  ∀ s t : State, s.Inv → step s = .next t → t.Inv

/-- Every state that the host can bring the core to, by cycles, ticks, ROM loads, resets and reads in any order (R427),
meets the invariant (R36, R60, R300, R303). `Reachable`, the host's transactions outside `step`, is the model's choice,
notes/assumptions/7.md, and the canonical form that the invariant includes is the model's memory form,
notes/assumptions/5.md. That the host may interleave freely is the spec's own decision D33; the latch and the record's
fields are its decisions D23 and D22. -/
def Obligations.ReachableStatesMeetInvariant : Prop :=
  ∀ s : State, Reachable s → s.Inv
end

