-- ==== Sys2Proof/Laws/Decode.lean ====
section
/-!
SUPPORT. The fields of an encoded word, one lemma per format of R81; and byte order.
-/

namespace Sys2Proof

theorem bits_ofNat {n : Nat} (h : n < 65536) (hi lo : Nat) :
    bits (BitVec.ofNat 16 n) hi lo = n / 2 ^ lo % 2 ^ (hi + 1 - lo) := by
  rw [bits, BitVec.toNat_ofNat, Nat.mod_eq_of_lt h]

theorem toNat_packNNN {o : Nat} (ho : o < 16) (nnn : Addr12) : (packNNN o nnn).toNat = o * 4096 + nnn.toNat := by
  have := nnn.isLt
  rw [packNNN, BitVec.toNat_ofNat]; omega

theorem toNat_packXNN {o : Nat} (ho : o < 16) (x : Reg) (nn : Byte) :
    (packXNN o x nn).toNat = o * 4096 + x.val * 256 + nn.toNat := by
  have := nn.isLt
  rw [packXNN, BitVec.toNat_ofNat]; omega

theorem toNat_packXYN {o n : Nat} (ho : o < 16) (hn : n < 16) (x y : Reg) :
    (packXYN o x y n).toNat = o * 4096 + x.val * 256 + y.val * 16 + n := by
  rw [packXYN, BitVec.toNat_ofNat]; omega

theorem toNat_packX {o f : Nat} (ho : o < 16) (hf : f < 256) (x : Reg) :
    (packX o x f).toNat = o * 4096 + x.val * 256 + f := by
  rw [packX, BitVec.toNat_ofNat]; omega

theorem toNat_wordOf (hi lo : Byte) : (wordOf hi lo).toNat = hi.toNat * 256 + lo.toNat := by
  have := hi.isLt; have := lo.isLt
  rw [wordOf, BitVec.toNat_ofNat]; omega

/-- R64: a word's bytes, composed again, are the word. -/
theorem wordOf_wordBytes (op : Word) :
    wordOf (BitVec.ofNat 8 (op.toNat / 256)) (BitVec.ofNat 8 (op.toNat % 256)) = op := by
  apply BitVec.eq_of_toNat_eq
  have := op.isLt
  rw [toNat_wordOf, BitVec.toNat_ofNat, BitVec.toNat_ofNat]; omega

theorem toNat_fieldNN (op : Word) : (fieldNN op).toNat = op.toNat % 256 := by
  simp [fieldNN, bits]

theorem toNat_fieldNNN (op : Word) : (fieldNNN op).toNat = op.toNat % 4096 := by
  simp [fieldNNN, bits]

theorem val_fieldX (op : Word) : (fieldX op).val = op.toNat / 256 % 16 := by
  simp [fieldX, bits, Fin.ofNat]

theorem val_fieldY (op : Word) : (fieldY op).val = op.toNat / 16 % 16 := by
  simp [fieldY, bits, Fin.ofNat]

theorem val_fieldN (op : Word) : (fieldN op).val = op.toNat % 16 := by
  simp [fieldN, bits, Fin.ofNat]

/-! ### What a decoder reads from a word of each format (R81) -/

theorem bits_category (op : Word) : bits op 15 12 = op.toNat / 4096 := by
  have := op.isLt
  simp [bits]; omega

theorem bits_lowNibble (op : Word) : bits op 3 0 = op.toNat % 16 := by simp [bits]

theorem bits_lowByte (op : Word) : bits op 7 0 = op.toNat % 256 := by simp [bits]

theorem fields_NNN {op : Word} {o : Nat} {nnn : Addr12} (h : op.toNat = o * 4096 + nnn.toNat) :
    bits op 15 12 = o ∧ fieldNNN op = nnn := by
  have := nnn.isLt
  refine ⟨by rw [bits_category]; omega, BitVec.eq_of_toNat_eq ?_⟩
  rw [toNat_fieldNNN]; omega

theorem fields_XNN {op : Word} {o : Nat} {x : Reg} {nn : Byte}
    (h : op.toNat = o * 4096 + x.val * 256 + nn.toNat) :
    bits op 15 12 = o ∧ fieldX op = x ∧ fieldNN op = nn := by
  have := nn.isLt
  refine ⟨by rw [bits_category]; omega, Fin.ext (by rw [val_fieldX]; omega), BitVec.eq_of_toNat_eq ?_⟩
  rw [toNat_fieldNN]; omega

theorem fields_XYN {op : Word} {o n : Nat} {x y : Reg} (hn : n < 16)
    (h : op.toNat = o * 4096 + x.val * 256 + y.val * 16 + n) :
    bits op 15 12 = o ∧ bits op 3 0 = n ∧ fieldX op = x ∧ fieldY op = y ∧ (fieldN op).val = n :=
  ⟨by rw [bits_category]; omega, by rw [bits_lowNibble]; omega, Fin.ext (by rw [val_fieldX]; omega),
    Fin.ext (by rw [val_fieldY]; omega), by rw [val_fieldN]; omega⟩

theorem fields_X {op : Word} {o f : Nat} {x : Reg} (hf : f < 256) (h : op.toNat = o * 4096 + x.val * 256 + f) :
    bits op 15 12 = o ∧ bits op 7 0 = f ∧ fieldX op = x :=
  ⟨by rw [bits_category]; omega, by rw [bits_lowByte]; omega, Fin.ext (by rw [val_fieldX]; omega)⟩

end Sys2Proof
end

