-- ==== Sys2Proof/Laws/Memory.lean ====
section
/-!
SUPPORT. Memory: every operation keeps the canonical form, and what a read gives after a write.
-/

namespace Sys2Proof.Machine

theorem rangeOk_iff (a n : Nat) : rangeOk a n = true ↔ a + n ≤ 4096 := by simp [rangeOk]

theorem Memory.wfFrom_cons {lo a : Nat} {v : Byte} {rest : Memory} :
    Memory.wfFrom lo ((a, v) :: rest) = true ↔
      lo ≤ a ∧ a < 4096 ∧ v ≠ resetByte a ∧ Memory.wfFrom (a + 1) rest = true := by
  simp [Memory.wfFrom, and_assoc]

theorem Memory.wfFrom_mono {lo lo' : Nat} {m : Memory} (h : Memory.wfFrom lo m = true) (hle : lo' ≤ lo) :
    Memory.wfFrom lo' m = true := by
  cases m with
  | nil => rfl
  | cons c rest =>
    obtain ⟨a, v⟩ := c
    rw [wfFrom_cons] at h ⊢
    exact ⟨by omega, h.2⟩

/-- Below the first listed address, a canonical memory reads as after reset. -/
theorem Memory.read_of_lt {lo a : Nat} {m : Memory} (h : Memory.wfFrom lo m = true) (ha : a < lo) :
    m.read a = resetByte a := by
  induction m generalizing lo with
  | nil => rfl
  | cons c rest ih =>
    obtain ⟨b, v⟩ := c
    rw [wfFrom_cons] at h
    rw [Memory.read, if_neg (by omega)]
    exact ih h.2.2.2 (by omega)

/-- One write keeps the canonical form. -/
theorem Memory.write_wfFrom {lo a : Nat} {m : Memory} (v : Byte) (h : Memory.wfFrom lo m = true) (hlo : lo ≤ a)
    (ha : a < 4096) : Memory.wfFrom lo (m.write a v) = true := by
  induction m generalizing lo with
  | nil =>
    rw [Memory.write]
    split
    · rfl
    · exact wfFrom_cons.2 ⟨hlo, ha, ‹_›, rfl⟩
  | cons c rest ih =>
    obtain ⟨b, w⟩ := c
    rw [Memory.write]
    have hc := wfFrom_cons.1 h
    split
    · split
      · exact h
      · exact wfFrom_cons.2 ⟨hlo, ha, ‹_›, wfFrom_cons.2 ⟨by omega, hc.2⟩⟩
    · split
      · split
        · exact wfFrom_mono hc.2.2.2 (by omega)
        · subst b; exact wfFrom_cons.2 ⟨hlo, ha, ‹_›, hc.2.2.2⟩
      · exact wfFrom_cons.2 ⟨hc.1, hc.2.1, hc.2.2.1, ih hc.2.2.2 (by omega)⟩

theorem Memory.write_wf {a : Nat} {m : Memory} (v : Byte) (h : m.wf = true) (ha : a < 4096) :
    (m.write a v).wf = true := write_wfFrom v h (by omega) ha

/-- Reading after one write. -/
theorem Memory.read_writeFrom {lo a : Nat} {m : Memory} (v : Byte) (b : Nat) (h : Memory.wfFrom lo m = true) :
    (m.write a v).read b = if b = a then v else m.read b := by
  induction m generalizing lo with
  | nil =>
    rw [Memory.write]
    by_cases hb : b = a
    · subst b
      rw [if_pos rfl]
      split
      · exact (‹v = _›).symm
      · rw [Memory.read, if_pos rfl]
    · rw [if_neg hb]
      split
      · rfl
      · simp [Memory.read, Ne.symm hb]
  | cons c rest ih =>
    obtain ⟨d, w⟩ := c
    have hc := wfFrom_cons.1 h
    have hlt : ∀ e, e ≤ d → Memory.read rest e = resetByte e := fun e he => read_of_lt hc.2.2.2 (by omega)
    rw [Memory.write]
    by_cases hb : b = a
    · subst b
      rw [if_pos rfl]
      split
      · split
        · rw [Memory.read, if_neg (by omega), hlt a (by omega)]; exact (‹v = _›).symm
        · simp [Memory.read]
      · split
        · split
          · rw [hlt a (by omega)]; exact (‹v = _›).symm
          · simp [Memory.read]
        · rw [Memory.read, if_neg (by omega), ih hc.2.2.2, if_pos rfl]
    · rw [if_neg hb]
      split
      · split
        · rfl
        · rw [Memory.read, if_neg (by omega)]
      · split
        · split
          · rw [Memory.read, if_neg (by omega)]
          · rw [Memory.read, if_neg (by omega), Memory.read, if_neg (by omega)]
        · rw [Memory.read, Memory.read, ih hc.2.2.2, if_neg hb]

theorem Memory.read_write {a : Nat} {m : Memory} (v : Byte) (b : Nat) (h : m.wf = true) :
    (m.write a v).read b = if b = a then v else m.read b := read_writeFrom v b h

/-- `MemWrite` keeps the canonical form. -/
theorem Memory.writeBytes_wf {a : Nat} {m : Memory} (l : List Byte) (h : m.wf = true) (ha : a + l.length ≤ 4096) :
    (m.writeBytes a l).wf = true := by
  induction l generalizing a m with
  | nil => exact h
  | cons v vs ih =>
    rw [List.length_cons] at ha
    exact ih (write_wf v h (by omega)) (by omega)

/-- Reading after `MemWrite` (R13): byte `k` of the list at `a + k`, the old byte elsewhere. -/
theorem Memory.read_writeBytes {m : Memory} (l : List Byte) :
    ∀ {a : Nat}, m.wf = true → a + l.length ≤ 4096 → ∀ b : Nat,
      (m.writeBytes a l).read b = if h : a ≤ b ∧ b < a + l.length then l[b - a]'(by omega) else m.read b := by
  induction l generalizing m with
  | nil => intro a h hl b; rw [dif_neg (by simp)]; rfl
  | cons v vs ih =>
    intro a h hl b
    rw [List.length_cons] at hl
    rw [Memory.writeBytes, ih (write_wf v h (by omega)) (by omega)]
    by_cases hb : b = a
    · subst hb
      rw [dif_neg (by omega), dif_pos (by simp), read_write v b h, if_pos rfl]; simp
    · by_cases hc : a + 1 ≤ b ∧ b < a + 1 + vs.length
      · rw [dif_pos hc, dif_pos (by simp; omega)]
        obtain ⟨j, rfl⟩ : ∃ j, b = a + 1 + j := ⟨b - (a + 1), by omega⟩
        have e1 : a + 1 + j - (a + 1) = j := by omega
        have e2 : a + 1 + j - a = j + 1 := by omega
        simp [e1, e2]
      · rw [dif_neg hc, dif_neg (by simp; omega), read_write v b h, if_neg hb]

theorem Memory.length_readBytes (m : Memory) (a n : Nat) : (m.readBytes a n).length = n := by
  induction n generalizing a with
  | zero => rfl
  | succ n ih => rw [Memory.readBytes, List.length_cons, ih]

/-- Byte `k` of `MemRead(a, n)` is `mem[a + k]` (R13). -/
theorem Memory.getElem_readBytes (m : Memory) (a n k : Nat) (h : k < (m.readBytes a n).length) :
    (m.readBytes a n)[k] = m.read (a + k) := by
  induction n generalizing a k with
  | zero => simp [Memory.readBytes] at h
  | succ n ih =>
    cases k with
    | zero => rfl
    | succ k =>
      simp only [Memory.readBytes, List.getElem_cons_succ]
      rw [ih]; congr 1; omega

/-- Memory with nothing listed, the one State.reset has, is canonical. -/
theorem Memory.wf_nil : Memory.wf [] = true := rfl

end Sys2Proof.Machine
end

