-- ==== Sys2Proof/Laws/State.lean ====
section
/-!
SUPPORT. The state's small lemmas: one per field per update, true by definition, so that no proof unfolds a record update.
-/

namespace Sys2Proof.Machine

/-! ### `writeV` -/

@[simp] theorem State.writeV_V (s : State) (x : Reg) (b : Byte) : (s.writeV x b).V = s.V.set x.val b := rfl
@[simp] theorem State.writeV_pc (s : State) (x : Reg) (b : Byte) : (s.writeV x b).pc = s.pc := rfl
@[simp] theorem State.writeV_I (s : State) (x : Reg) (b : Byte) : (s.writeV x b).I = s.I := rfl
@[simp] theorem State.writeV_DT (s : State) (x : Reg) (b : Byte) : (s.writeV x b).DT = s.DT := rfl
@[simp] theorem State.writeV_ST (s : State) (x : Reg) (b : Byte) : (s.writeV x b).ST = s.ST := rfl
@[simp] theorem State.writeV_stack (s : State) (x : Reg) (b : Byte) : (s.writeV x b).stack = s.stack := rfl
@[simp] theorem State.writeV_sp (s : State) (x : Reg) (b : Byte) : (s.writeV x b).sp = s.sp := rfl
@[simp] theorem State.writeV_romLoaded (s : State) (x : Reg) (b : Byte) : (s.writeV x b).romLoaded = s.romLoaded := rfl
@[simp] theorem State.writeV_redraw (s : State) (x : Reg) (b : Byte) : (s.writeV x b).redraw = s.redraw := rfl
@[simp] theorem State.writeV_fault (s : State) (x : Reg) (b : Byte) : (s.writeV x b).fault = s.fault := rfl
@[simp] theorem State.writeV_pix (s : State) (x : Reg) (b : Byte) : (s.writeV x b).pix = s.pix := rfl
@[simp] theorem State.writeV_mem (s : State) (x : Reg) (b : Byte) : (s.writeV x b).mem = s.mem := rfl
@[simp] theorem State.writeV_draws (s : State) (x : Reg) (b : Byte) : (s.writeV x b).draws = s.draws := rfl

/-! ### `setPc` -/

@[simp] theorem State.setPc_V (s : State) (a : Word) : (s.setPc a).V = s.V := rfl
@[simp] theorem State.setPc_pc (s : State) (a : Word) : (s.setPc a).pc = a := rfl
@[simp] theorem State.setPc_I (s : State) (a : Word) : (s.setPc a).I = s.I := rfl
@[simp] theorem State.setPc_DT (s : State) (a : Word) : (s.setPc a).DT = s.DT := rfl
@[simp] theorem State.setPc_ST (s : State) (a : Word) : (s.setPc a).ST = s.ST := rfl
@[simp] theorem State.setPc_stack (s : State) (a : Word) : (s.setPc a).stack = s.stack := rfl
@[simp] theorem State.setPc_sp (s : State) (a : Word) : (s.setPc a).sp = s.sp := rfl
@[simp] theorem State.setPc_romLoaded (s : State) (a : Word) : (s.setPc a).romLoaded = s.romLoaded := rfl
@[simp] theorem State.setPc_redraw (s : State) (a : Word) : (s.setPc a).redraw = s.redraw := rfl
@[simp] theorem State.setPc_fault (s : State) (a : Word) : (s.setPc a).fault = s.fault := rfl
@[simp] theorem State.setPc_pix (s : State) (a : Word) : (s.setPc a).pix = s.pix := rfl
@[simp] theorem State.setPc_mem (s : State) (a : Word) : (s.setPc a).mem = s.mem := rfl
@[simp] theorem State.setPc_draws (s : State) (a : Word) : (s.setPc a).draws = s.draws := rfl

/-! ### `setI` -/

@[simp] theorem State.setI_V (s : State) (a : Word) : (s.setI a).V = s.V := rfl
@[simp] theorem State.setI_pc (s : State) (a : Word) : (s.setI a).pc = s.pc := rfl
@[simp] theorem State.setI_I (s : State) (a : Word) : (s.setI a).I = a := rfl
@[simp] theorem State.setI_DT (s : State) (a : Word) : (s.setI a).DT = s.DT := rfl
@[simp] theorem State.setI_ST (s : State) (a : Word) : (s.setI a).ST = s.ST := rfl
@[simp] theorem State.setI_stack (s : State) (a : Word) : (s.setI a).stack = s.stack := rfl
@[simp] theorem State.setI_sp (s : State) (a : Word) : (s.setI a).sp = s.sp := rfl
@[simp] theorem State.setI_romLoaded (s : State) (a : Word) : (s.setI a).romLoaded = s.romLoaded := rfl
@[simp] theorem State.setI_redraw (s : State) (a : Word) : (s.setI a).redraw = s.redraw := rfl
@[simp] theorem State.setI_fault (s : State) (a : Word) : (s.setI a).fault = s.fault := rfl
@[simp] theorem State.setI_pix (s : State) (a : Word) : (s.setI a).pix = s.pix := rfl
@[simp] theorem State.setI_mem (s : State) (a : Word) : (s.setI a).mem = s.mem := rfl
@[simp] theorem State.setI_draws (s : State) (a : Word) : (s.setI a).draws = s.draws := rfl

/-! ### `setDT` -/

@[simp] theorem State.setDT_V (s : State) (b : Byte) : (s.setDT b).V = s.V := rfl
@[simp] theorem State.setDT_pc (s : State) (b : Byte) : (s.setDT b).pc = s.pc := rfl
@[simp] theorem State.setDT_I (s : State) (b : Byte) : (s.setDT b).I = s.I := rfl
@[simp] theorem State.setDT_DT (s : State) (b : Byte) : (s.setDT b).DT = b := rfl
@[simp] theorem State.setDT_ST (s : State) (b : Byte) : (s.setDT b).ST = s.ST := rfl
@[simp] theorem State.setDT_stack (s : State) (b : Byte) : (s.setDT b).stack = s.stack := rfl
@[simp] theorem State.setDT_sp (s : State) (b : Byte) : (s.setDT b).sp = s.sp := rfl
@[simp] theorem State.setDT_romLoaded (s : State) (b : Byte) : (s.setDT b).romLoaded = s.romLoaded := rfl
@[simp] theorem State.setDT_redraw (s : State) (b : Byte) : (s.setDT b).redraw = s.redraw := rfl
@[simp] theorem State.setDT_fault (s : State) (b : Byte) : (s.setDT b).fault = s.fault := rfl
@[simp] theorem State.setDT_pix (s : State) (b : Byte) : (s.setDT b).pix = s.pix := rfl
@[simp] theorem State.setDT_mem (s : State) (b : Byte) : (s.setDT b).mem = s.mem := rfl
@[simp] theorem State.setDT_draws (s : State) (b : Byte) : (s.setDT b).draws = s.draws := rfl

/-! ### `setST` -/

@[simp] theorem State.setST_V (s : State) (b : Byte) : (s.setST b).V = s.V := rfl
@[simp] theorem State.setST_pc (s : State) (b : Byte) : (s.setST b).pc = s.pc := rfl
@[simp] theorem State.setST_I (s : State) (b : Byte) : (s.setST b).I = s.I := rfl
@[simp] theorem State.setST_DT (s : State) (b : Byte) : (s.setST b).DT = s.DT := rfl
@[simp] theorem State.setST_ST (s : State) (b : Byte) : (s.setST b).ST = b := rfl
@[simp] theorem State.setST_stack (s : State) (b : Byte) : (s.setST b).stack = s.stack := rfl
@[simp] theorem State.setST_sp (s : State) (b : Byte) : (s.setST b).sp = s.sp := rfl
@[simp] theorem State.setST_romLoaded (s : State) (b : Byte) : (s.setST b).romLoaded = s.romLoaded := rfl
@[simp] theorem State.setST_redraw (s : State) (b : Byte) : (s.setST b).redraw = s.redraw := rfl
@[simp] theorem State.setST_fault (s : State) (b : Byte) : (s.setST b).fault = s.fault := rfl
@[simp] theorem State.setST_pix (s : State) (b : Byte) : (s.setST b).pix = s.pix := rfl
@[simp] theorem State.setST_mem (s : State) (b : Byte) : (s.setST b).mem = s.mem := rfl
@[simp] theorem State.setST_draws (s : State) (b : Byte) : (s.setST b).draws = s.draws := rfl

/-! ### `memWrite` -/

@[simp] theorem State.memWrite_V (s : State) (a : Nat) (l : List Byte) : (s.memWrite a l).V = s.V := rfl
@[simp] theorem State.memWrite_pc (s : State) (a : Nat) (l : List Byte) : (s.memWrite a l).pc = s.pc := rfl
@[simp] theorem State.memWrite_I (s : State) (a : Nat) (l : List Byte) : (s.memWrite a l).I = s.I := rfl
@[simp] theorem State.memWrite_DT (s : State) (a : Nat) (l : List Byte) : (s.memWrite a l).DT = s.DT := rfl
@[simp] theorem State.memWrite_ST (s : State) (a : Nat) (l : List Byte) : (s.memWrite a l).ST = s.ST := rfl
@[simp] theorem State.memWrite_stack (s : State) (a : Nat) (l : List Byte) : (s.memWrite a l).stack = s.stack := rfl
@[simp] theorem State.memWrite_sp (s : State) (a : Nat) (l : List Byte) : (s.memWrite a l).sp = s.sp := rfl
@[simp] theorem State.memWrite_romLoaded (s : State) (a : Nat) (l : List Byte) : (s.memWrite a l).romLoaded = s.romLoaded := rfl
@[simp] theorem State.memWrite_redraw (s : State) (a : Nat) (l : List Byte) : (s.memWrite a l).redraw = s.redraw := rfl
@[simp] theorem State.memWrite_fault (s : State) (a : Nat) (l : List Byte) : (s.memWrite a l).fault = s.fault := rfl
@[simp] theorem State.memWrite_pix (s : State) (a : Nat) (l : List Byte) : (s.memWrite a l).pix = s.pix := rfl
@[simp] theorem State.memWrite_mem (s : State) (a : Nat) (l : List Byte) : (s.memWrite a l).mem = s.mem.writeBytes a l := rfl
@[simp] theorem State.memWrite_draws (s : State) (a : Nat) (l : List Byte) : (s.memWrite a l).draws = s.draws := rfl

/-! ### `clear` -/

@[simp] theorem State.clear_V (s : State) : (s.clear).V = s.V := rfl
@[simp] theorem State.clear_pc (s : State) : (s.clear).pc = s.pc := rfl
@[simp] theorem State.clear_I (s : State) : (s.clear).I = s.I := rfl
@[simp] theorem State.clear_DT (s : State) : (s.clear).DT = s.DT := rfl
@[simp] theorem State.clear_ST (s : State) : (s.clear).ST = s.ST := rfl
@[simp] theorem State.clear_stack (s : State) : (s.clear).stack = s.stack := rfl
@[simp] theorem State.clear_sp (s : State) : (s.clear).sp = s.sp := rfl
@[simp] theorem State.clear_romLoaded (s : State) : (s.clear).romLoaded = s.romLoaded := rfl
@[simp] theorem State.clear_redraw (s : State) : (s.clear).redraw = true := rfl
@[simp] theorem State.clear_fault (s : State) : (s.clear).fault = s.fault := rfl
@[simp] theorem State.clear_pix (s : State) : (s.clear).pix = Grid.blank := rfl
@[simp] theorem State.clear_mem (s : State) : (s.clear).mem = s.mem := rfl
@[simp] theorem State.clear_draws (s : State) : (s.clear).draws = s.draws := rfl

/-! ### `nextQuery` -/

@[simp] theorem State.nextQuery_V (s : State) : (s.nextQuery).V = s.V := rfl
@[simp] theorem State.nextQuery_pc (s : State) : (s.nextQuery).pc = s.pc := rfl
@[simp] theorem State.nextQuery_I (s : State) : (s.nextQuery).I = s.I := rfl
@[simp] theorem State.nextQuery_DT (s : State) : (s.nextQuery).DT = s.DT := rfl
@[simp] theorem State.nextQuery_ST (s : State) : (s.nextQuery).ST = s.ST := rfl
@[simp] theorem State.nextQuery_stack (s : State) : (s.nextQuery).stack = s.stack := rfl
@[simp] theorem State.nextQuery_sp (s : State) : (s.nextQuery).sp = s.sp := rfl
@[simp] theorem State.nextQuery_romLoaded (s : State) : (s.nextQuery).romLoaded = s.romLoaded := rfl
@[simp] theorem State.nextQuery_redraw (s : State) : (s.nextQuery).redraw = s.redraw := rfl
@[simp] theorem State.nextQuery_fault (s : State) : (s.nextQuery).fault = s.fault := rfl
@[simp] theorem State.nextQuery_pix (s : State) : (s.nextQuery).pix = s.pix := rfl
@[simp] theorem State.nextQuery_mem (s : State) : (s.nextQuery).mem = s.mem := rfl
@[simp] theorem State.nextQuery_draws (s : State) : (s.nextQuery).draws = s.draws + 1 := rfl

/-! ### `raise` -/

@[simp] theorem State.raise_V (s : State) (k : FaultKind) (p : Word) (o a : Option Word) : (s.raise k p o a).V = s.V := rfl
@[simp] theorem State.raise_pc (s : State) (k : FaultKind) (p : Word) (o a : Option Word) : (s.raise k p o a).pc = s.pc := rfl
@[simp] theorem State.raise_I (s : State) (k : FaultKind) (p : Word) (o a : Option Word) : (s.raise k p o a).I = s.I := rfl
@[simp] theorem State.raise_DT (s : State) (k : FaultKind) (p : Word) (o a : Option Word) : (s.raise k p o a).DT = s.DT := rfl
@[simp] theorem State.raise_ST (s : State) (k : FaultKind) (p : Word) (o a : Option Word) : (s.raise k p o a).ST = s.ST := rfl
@[simp] theorem State.raise_stack (s : State) (k : FaultKind) (p : Word) (o a : Option Word) : (s.raise k p o a).stack = s.stack := rfl
@[simp] theorem State.raise_sp (s : State) (k : FaultKind) (p : Word) (o a : Option Word) : (s.raise k p o a).sp = s.sp := rfl
@[simp] theorem State.raise_romLoaded (s : State) (k : FaultKind) (p : Word) (o a : Option Word) : (s.raise k p o a).romLoaded = s.romLoaded := rfl
@[simp] theorem State.raise_redraw (s : State) (k : FaultKind) (p : Word) (o a : Option Word) : (s.raise k p o a).redraw = s.redraw := rfl
@[simp] theorem State.raise_fault (s : State) (k : FaultKind) (p : Word) (o a : Option Word) : (s.raise k p o a).fault = some ⟨k, p, o, a⟩ := rfl
@[simp] theorem State.raise_pix (s : State) (k : FaultKind) (p : Word) (o a : Option Word) : (s.raise k p o a).pix = s.pix := rfl
@[simp] theorem State.raise_mem (s : State) (k : FaultKind) (p : Word) (o a : Option Word) : (s.raise k p o a).mem = s.mem := rfl
@[simp] theorem State.raise_draws (s : State) (k : FaultKind) (p : Word) (o a : Option Word) : (s.raise k p o a).draws = s.draws := rfl

/-! ### `raiseIn` -/

@[simp] theorem State.raiseIn_V (s : State) (k : FaultKind) (o : Word) (a : Option Word) : (s.raiseIn k o a).V = s.V := rfl
@[simp] theorem State.raiseIn_pc (s : State) (k : FaultKind) (o : Word) (a : Option Word) : (s.raiseIn k o a).pc = s.pc := rfl
@[simp] theorem State.raiseIn_I (s : State) (k : FaultKind) (o : Word) (a : Option Word) : (s.raiseIn k o a).I = s.I := rfl
@[simp] theorem State.raiseIn_DT (s : State) (k : FaultKind) (o : Word) (a : Option Word) : (s.raiseIn k o a).DT = s.DT := rfl
@[simp] theorem State.raiseIn_ST (s : State) (k : FaultKind) (o : Word) (a : Option Word) : (s.raiseIn k o a).ST = s.ST := rfl
@[simp] theorem State.raiseIn_stack (s : State) (k : FaultKind) (o : Word) (a : Option Word) : (s.raiseIn k o a).stack = s.stack := rfl
@[simp] theorem State.raiseIn_sp (s : State) (k : FaultKind) (o : Word) (a : Option Word) : (s.raiseIn k o a).sp = s.sp := rfl
@[simp] theorem State.raiseIn_romLoaded (s : State) (k : FaultKind) (o : Word) (a : Option Word) : (s.raiseIn k o a).romLoaded = s.romLoaded := rfl
@[simp] theorem State.raiseIn_redraw (s : State) (k : FaultKind) (o : Word) (a : Option Word) : (s.raiseIn k o a).redraw = s.redraw := rfl
@[simp] theorem State.raiseIn_fault (s : State) (k : FaultKind) (o : Word) (a : Option Word) : (s.raiseIn k o a).fault = some ⟨k, s.pc - 2, some o, a⟩ := rfl
@[simp] theorem State.raiseIn_pix (s : State) (k : FaultKind) (o : Word) (a : Option Word) : (s.raiseIn k o a).pix = s.pix := rfl
@[simp] theorem State.raiseIn_mem (s : State) (k : FaultKind) (o : Word) (a : Option Word) : (s.raiseIn k o a).mem = s.mem := rfl
@[simp] theorem State.raiseIn_draws (s : State) (k : FaultKind) (o : Word) (a : Option Word) : (s.raiseIn k o a).draws = s.draws := rfl

/-! ### `advance` -/

@[simp] theorem State.advance_V (s : State) : (s.advance).V = s.V := rfl
@[simp] theorem State.advance_pc (s : State) : (s.advance).pc = s.pc + 2 := rfl
@[simp] theorem State.advance_I (s : State) : (s.advance).I = s.I := rfl
@[simp] theorem State.advance_DT (s : State) : (s.advance).DT = s.DT := rfl
@[simp] theorem State.advance_ST (s : State) : (s.advance).ST = s.ST := rfl
@[simp] theorem State.advance_stack (s : State) : (s.advance).stack = s.stack := rfl
@[simp] theorem State.advance_sp (s : State) : (s.advance).sp = s.sp := rfl
@[simp] theorem State.advance_romLoaded (s : State) : (s.advance).romLoaded = s.romLoaded := rfl
@[simp] theorem State.advance_redraw (s : State) : (s.advance).redraw = s.redraw := rfl
@[simp] theorem State.advance_fault (s : State) : (s.advance).fault = s.fault := rfl
@[simp] theorem State.advance_pix (s : State) : (s.advance).pix = s.pix := rfl
@[simp] theorem State.advance_mem (s : State) : (s.advance).mem = s.mem := rfl
@[simp] theorem State.advance_draws (s : State) : (s.advance).draws = s.draws := rfl

/-! ### `tickTimers` -/

@[simp] theorem State.tickTimers_V (s : State) : (s.tickTimers).V = s.V := rfl
@[simp] theorem State.tickTimers_pc (s : State) : (s.tickTimers).pc = s.pc := rfl
@[simp] theorem State.tickTimers_I (s : State) : (s.tickTimers).I = s.I := rfl
@[simp] theorem State.tickTimers_DT (s : State) : (s.tickTimers).DT = if s.DT = 0 then 0 else s.DT - 1 := rfl
@[simp] theorem State.tickTimers_ST (s : State) : (s.tickTimers).ST = if s.ST = 0 then 0 else s.ST - 1 := rfl
@[simp] theorem State.tickTimers_stack (s : State) : (s.tickTimers).stack = s.stack := rfl
@[simp] theorem State.tickTimers_sp (s : State) : (s.tickTimers).sp = s.sp := rfl
@[simp] theorem State.tickTimers_romLoaded (s : State) : (s.tickTimers).romLoaded = s.romLoaded := rfl
@[simp] theorem State.tickTimers_redraw (s : State) : (s.tickTimers).redraw = s.redraw := rfl
@[simp] theorem State.tickTimers_fault (s : State) : (s.tickTimers).fault = s.fault := rfl
@[simp] theorem State.tickTimers_pix (s : State) : (s.tickTimers).pix = s.pix := rfl
@[simp] theorem State.tickTimers_mem (s : State) : (s.tickTimers).mem = s.mem := rfl
@[simp] theorem State.tickTimers_draws (s : State) : (s.tickTimers).draws = s.draws := rfl

/-! ### `draw` -/

@[simp] theorem State.draw_V (s : State) (l : List Byte) (xa ya : Byte) : (s.draw l xa ya).1.V = s.V := rfl
@[simp] theorem State.draw_pc (s : State) (l : List Byte) (xa ya : Byte) : (s.draw l xa ya).1.pc = s.pc := rfl
@[simp] theorem State.draw_I (s : State) (l : List Byte) (xa ya : Byte) : (s.draw l xa ya).1.I = s.I := rfl
@[simp] theorem State.draw_DT (s : State) (l : List Byte) (xa ya : Byte) : (s.draw l xa ya).1.DT = s.DT := rfl
@[simp] theorem State.draw_ST (s : State) (l : List Byte) (xa ya : Byte) : (s.draw l xa ya).1.ST = s.ST := rfl
@[simp] theorem State.draw_stack (s : State) (l : List Byte) (xa ya : Byte) : (s.draw l xa ya).1.stack = s.stack := rfl
@[simp] theorem State.draw_sp (s : State) (l : List Byte) (xa ya : Byte) : (s.draw l xa ya).1.sp = s.sp := rfl
@[simp] theorem State.draw_romLoaded (s : State) (l : List Byte) (xa ya : Byte) : (s.draw l xa ya).1.romLoaded = s.romLoaded := rfl
@[simp] theorem State.draw_redraw (s : State) (l : List Byte) (xa ya : Byte) : (s.draw l xa ya).1.redraw = true := rfl
@[simp] theorem State.draw_fault (s : State) (l : List Byte) (xa ya : Byte) : (s.draw l xa ya).1.fault = s.fault := rfl
@[simp] theorem State.draw_pix (s : State) (l : List Byte) (xa ya : Byte) : (s.draw l xa ya).1.pix = (drawSprite l xa ya s.pix).1 := rfl
@[simp] theorem State.draw_mem (s : State) (l : List Byte) (xa ya : Byte) : (s.draw l xa ya).1.mem = s.mem := rfl
@[simp] theorem State.draw_draws (s : State) (l : List Byte) (xa ya : Byte) : (s.draw l xa ya).1.draws = s.draws := rfl
@[simp] theorem State.draw_collision (s : State) (l : List Byte) (xa ya : Byte) :
    (s.draw l xa ya).2 = (drawSprite l xa ya s.pix).2 := rfl

/-! ### `skipIf`: only `pc` depends on the condition -/

@[simp] theorem State.skipIf_V (s : State) (c : Bool) : (s.skipIf c).V = s.V := by cases c <;> rfl
@[simp] theorem State.skipIf_pc (s : State) (c : Bool) : (s.skipIf c).pc = if c then s.pc + 2 else s.pc := by
  cases c <;> rfl
@[simp] theorem State.skipIf_I (s : State) (c : Bool) : (s.skipIf c).I = s.I := by cases c <;> rfl
@[simp] theorem State.skipIf_DT (s : State) (c : Bool) : (s.skipIf c).DT = s.DT := by cases c <;> rfl
@[simp] theorem State.skipIf_ST (s : State) (c : Bool) : (s.skipIf c).ST = s.ST := by cases c <;> rfl
@[simp] theorem State.skipIf_stack (s : State) (c : Bool) : (s.skipIf c).stack = s.stack := by cases c <;> rfl
@[simp] theorem State.skipIf_sp (s : State) (c : Bool) : (s.skipIf c).sp = s.sp := by cases c <;> rfl
@[simp] theorem State.skipIf_romLoaded (s : State) (c : Bool) : (s.skipIf c).romLoaded = s.romLoaded := by cases c <;> rfl
@[simp] theorem State.skipIf_redraw (s : State) (c : Bool) : (s.skipIf c).redraw = s.redraw := by cases c <;> rfl
@[simp] theorem State.skipIf_fault (s : State) (c : Bool) : (s.skipIf c).fault = s.fault := by cases c <;> rfl
@[simp] theorem State.skipIf_pix (s : State) (c : Bool) : (s.skipIf c).pix = s.pix := by cases c <;> rfl
@[simp] theorem State.skipIf_mem (s : State) (c : Bool) : (s.skipIf c).mem = s.mem := by cases c <;> rfl
@[simp] theorem State.skipIf_draws (s : State) (c : Bool) : (s.skipIf c).draws = s.draws := by cases c <;> rfl

/-! ### Registers -/

@[simp] theorem State.readV_writeV (s : State) (x z : Reg) (b : Byte) :
    (s.writeV x b).readV z = if z = x then b else s.readV z := by
  simp only [State.readV, State.writeV_V, Vector.getElem_set, Fin.ext_iff, eq_comm]

end Sys2Proof.Machine
end

