-- ==== Sys2Proof/Laws/Surface.lean ====
section
/-!
SUPPORT. The display surface: a pixel after a pixel is written, and when two grids are equal.
-/

namespace Sys2Proof.Machine

theorem Grid.pix_blank (x : Fin 64) (y : Fin 32) : Grid.blank.pix x y = false := by
  simp [Grid.pix, Grid.blank]

theorem Grid.pix_setPix (g : Grid) (x x' : Fin 64) (y y' : Fin 32) (p : Bool) :
    (g.setPix x y p).pix x' y' = if x' = x ∧ y' = y then p else g.pix x' y' := by
  simp only [Grid.pix, Grid.setPix, Vector.getElem_set, Fin.ext_iff]
  by_cases hy : y.val = y'.val
  · by_cases hx : x.val = x'.val
    · simp [hy, hx]
    · simp [hy, hx, Ne.symm hx]
  · simp [hy, Ne.symm hy]

theorem Grid.ext_pix {g g' : Grid} (h : ∀ (x : Fin 64) (y : Fin 32), g.pix x y = g'.pix x y) : g = g' := by
  apply Vector.ext
  intro y hy
  apply Vector.ext
  intro x hx
  exact h ⟨x, hx⟩ ⟨y, hy⟩

end Sys2Proof.Machine
end

