-- ==== Sys2Proof/Laws/Ops.lean ====
section
/-!
SUPPORT. The shared operations: for each, once, everything it can do.
-/

namespace Sys2Proof.Machine

/-- `Push` succeeds exactly below 16, and then stores at `stack[sp]` and counts up (R39). -/
theorem State.push_of_lt {s : State} (a : Word) (h : s.sp.val < 16) :
    s.push a = some { s with stack := s.stack.set s.sp.val a, sp := ⟨s.sp.val + 1, by omega⟩ } := by
  rw [State.push, dif_pos h]

theorem State.push_full {s : State} (a : Word) (h : s.sp.val = 16) : s.push a = none := by
  rw [State.push, dif_neg (by omega)]

theorem State.push_cases {s t : State} {a : Word} (h : s.push a = some t) :
    ∃ hlt : s.sp.val < 16, t = { s with stack := s.stack.set s.sp.val a, sp := ⟨s.sp.val + 1, by omega⟩ } := by
  rw [State.push] at h
  split at h
  · exact ⟨‹_›, (Option.some.inj h).symm⟩
  · cases h

/-- `Pop` succeeds exactly above 0, and then answers `stack[sp - 1]` and counts down (R39). -/
theorem State.pop_of_pos {s : State} (h : s.sp.val ≠ 0) :
    s.pop = some (s.stack[s.sp.val - 1], { s with sp := ⟨s.sp.val - 1, by omega⟩ }) := by
  rw [State.pop, dif_neg h]

theorem State.pop_empty {s : State} (h : s.sp.val = 0) : s.pop = none := by
  rw [State.pop, dif_pos h]

theorem State.pop_cases {s t : State} {a : Word} (h : s.pop = some (a, t)) :
    ∃ _ : s.sp.val ≠ 0, a = s.stack[s.sp.val - 1] ∧ t = { s with sp := ⟨s.sp.val - 1, by omega⟩ } := by
  rw [State.pop] at h
  split at h
  · cases h
  · cases h; exact ⟨‹_›, rfl, rfl⟩

/-- A skip on a decidable condition (R110). -/
theorem State.skipIf_decide (s : State) (p : Prop) [Decidable p] :
    s.skipIf (decide p) = if p then { s with pc := s.pc + 2 } else s := by
  by_cases h : p <;> simp [State.skipIf, State.setPc, h]

/-- The value of VF for a decidable condition (R150). -/
theorem flagByte_decide (p : Prop) [Decidable p] : flagByte (decide p) = if p then 1#8 else 0#8 := by
  by_cases h : p <;> simp [flagByte, h]

/-- VF after 8XY4 (R156). -/
theorem flagByte_carryFlag (a b : Byte) :
    flagByte (carryFlag a b) = if (a.toNat + b.toNat) % 256 < a.toNat then 1#8 else 0#8 := by
  rw [carryFlag, flagByte_decide, BitVec.toNat_add]

/-- VF after 8XY5 and 8XY7 (R157, R159). -/
theorem flagByte_notBorrow (a b : Byte) :
    flagByte (notBorrow a b) = if b.toNat ≤ a.toNat then 1#8 else 0#8 := by
  rw [notBorrow, flagByte_decide]

theorem keyIndex_cases (v : Byte) :
    (∃ h : v.toNat < 16, keyIndex v = some ⟨v.toNat, h⟩) ∨ (15 < v.toNat ∧ keyIndex v = none) := by
  rw [keyIndex]
  split
  · exact .inl ⟨‹_›, rfl⟩
  · exact .inr ⟨by omega, rfl⟩

/-- Loading registers 0 to k-1 from memory: register `i` below `k` takes the byte at `base + i`, the others stay. -/
theorem getElem_loadRegs (m : Memory) (base : Nat) (k : Nat) (V : Vector Byte 16) (i : Nat) (hi : i < 16) :
    (loadRegs m base k V)[i] = if i < k then m.read (base + i) else V[i] := by
  induction k with
  | zero => simp [loadRegs]
  | succ k ih =>
    rw [loadRegs, Vector.getElem_setIfInBounds]
    by_cases h : k = i
    · simp [h]
    · rw [if_neg h, ih]
      by_cases h' : i < k
      · rw [if_pos h', if_pos (by omega)]
      · rw [if_neg h', if_neg (by omega)]

theorem length_firstRegs (s : State) (x : Reg) : (s.firstRegs x).length = x.val + 1 := by
  simp [State.firstRegs]

theorem getElem_firstRegs (s : State) (x : Reg) (k : Nat) (h : k < (s.firstRegs x).length) :
    (s.firstRegs x)[k] = s.V[k]'(by rw [length_firstRegs] at h; omega) := by
  simp [State.firstRegs]

theorem length_decimalDigits (v : Byte) : (decimalDigits v).length = 3 := rfl

/-- What is checked before the fetch, in order (R90, R91, R303). -/
theorem State.prefetchFault_none_iff (s : State) :
    s.prefetchFault = none ↔ s.romLoaded = true ∧ s.pc.toNat ≤ 4094 := by
  rw [State.prefetchFault]
  cases hr : s.romLoaded
  · simp
  · simp only [Bool.true_eq_false, if_false]
    split
    · simp_all [rangeOk_iff]
    · simp_all [rangeOk_iff]

end Sys2Proof.Machine
end

