-- ==== Sys2Proof/Laws/Exec.lean ====
section
/-!
SUPPORT. What each meaning with more than one case can do: one inversion lemma per meaning, so that no proof unfolds it.
-/

namespace Sys2Proof.Machine

/-- RET (R102): it pops, or raises StackUnderflow. -/
theorem exec_ret_cases {s t : State} (h : exec .ret s = .next t) :
    (∃ _ : s.sp.val ≠ 0, t = { s with sp := ⟨s.sp.val - 1, by omega⟩, pc := s.stack[s.sp.val - 1] }) ∨
    (s.sp.val = 0 ∧ t = s.raiseIn .stackUnderflow (encode .ret) none) := by
  simp only [exec, execRet, Host.Outcome.next.injEq] at h
  by_cases h0 : s.sp.val = 0
  · rw [State.pop_empty h0] at h; exact .inr ⟨h0, h.symm⟩
  · rw [State.pop_of_pos h0] at h; exact .inl ⟨h0, h.symm⟩

/-- CALL (R104): it pushes, or raises StackOverflow. -/
theorem exec_call_cases {nnn : Addr12} {s t : State} (h : exec (.call nnn) s = .next t) :
    (∃ _ : s.sp.val < 16, t =
      { s with stack := s.stack.set s.sp.val s.pc, sp := ⟨s.sp.val + 1, by omega⟩, pc := zextAddr nnn }) ∨
    (s.sp.val = 16 ∧ t = s.raiseIn .stackOverflow (encode (.call nnn)) none) := by
  simp only [exec, execCall, Host.Outcome.next.injEq] at h
  by_cases h0 : s.sp.val < 16
  · rw [State.push_of_lt s.pc h0] at h; exact .inl ⟨h0, h.symm⟩
  · have h16 : s.sp.val = 16 := by omega
    rw [State.push_full s.pc h16] at h; exact .inr ⟨h16, h.symm⟩

/-- DRW (R188): it draws, or raises InvalidRamAddress. -/
theorem exec_drw_cases {x y : Reg} {n : Fin 16} {s t : State} (h : exec (.drw x y n) s = .next t) :
    (s.I.toNat + n.val ≤ 4096 ∧
      t = (s.draw (s.memRead s.I.toNat n.val) (s.readV x) (s.readV y)).1.writeV VF
        (flagByte (s.draw (s.memRead s.I.toNat n.val) (s.readV x) (s.readV y)).2)) ∨
    (4096 < s.I.toNat + n.val ∧ t = s.raiseIn .invalidRamAddress (encode (.drw x y n)) (some s.I)) := by
  simp only [exec, execDrw, Host.Outcome.next.injEq] at h
  split at h
  · exact .inl ⟨(rangeOk_iff _ _).1 ‹_›, h.symm⟩
  · rename_i hr; rw [rangeOk_iff] at hr; exact .inr ⟨by omega, h.symm⟩

/-- LD B, VX (R242): it stores three bytes, or raises InvalidRamAddress. -/
theorem exec_ldBVx_cases {x : Reg} {s t : State} (h : exec (.ldBVx x) s = .next t) :
    (s.I.toNat + 3 ≤ 4096 ∧ t = s.memWrite s.I.toNat (decimalDigits (s.readV x))) ∨
    (4096 < s.I.toNat + 3 ∧ t = s.raiseIn .invalidRamAddress (encode (.ldBVx x)) (some s.I)) := by
  simp only [exec, execLdBVx, Host.Outcome.next.injEq] at h
  split at h
  · exact .inl ⟨(rangeOk_iff _ _).1 ‹_›, h.symm⟩
  · rename_i hr; rw [rangeOk_iff] at hr; exact .inr ⟨by omega, h.symm⟩

/-- LD [I], VX (R243): it stores x + 1 bytes, or raises InvalidRamAddress. -/
theorem exec_ldMemVx_cases {x : Reg} {s t : State} (h : exec (.ldMemVx x) s = .next t) :
    (s.I.toNat + (x.val + 1) ≤ 4096 ∧ t = s.memWrite s.I.toNat (s.firstRegs x)) ∨
    (4096 < s.I.toNat + (x.val + 1) ∧ t = s.raiseIn .invalidRamAddress (encode (.ldMemVx x)) (some s.I)) := by
  simp only [exec, execLdMemVx, Host.Outcome.next.injEq] at h
  split at h
  · exact .inl ⟨(rangeOk_iff _ _).1 ‹_›, h.symm⟩
  · rename_i hr; rw [rangeOk_iff] at hr; exact .inr ⟨by omega, h.symm⟩

/-- LD VX, [I] (R244): it loads x + 1 registers, or raises InvalidRamAddress. -/
theorem exec_ldVxMem_cases {x : Reg} {s t : State} (h : exec (.ldVxMem x) s = .next t) :
    (s.I.toNat + (x.val + 1) ≤ 4096 ∧ t = { s with V := loadRegs s.mem s.I.toNat (x.val + 1) s.V }) ∨
    (4096 < s.I.toNat + (x.val + 1) ∧ t = s.raiseIn .invalidRamAddress (encode (.ldVxMem x)) (some s.I)) := by
  simp only [exec, execLdVxMem, Host.Outcome.next.injEq] at h
  split at h
  · exact .inl ⟨(rangeOk_iff _ _).1 ‹_›, h.symm⟩
  · rename_i hr; rw [rangeOk_iff] at hr; exact .inr ⟨by omega, h.symm⟩

/-- SKP (R211): it asks the host and may skip, or raises KeyIndexOutOfRange. -/
theorem exec_skp_cases {x : Reg} {s t : State} (h : exec (.skp x) s = .next t) :
    (∃ hk : (s.readV x).toNat < 16, t = s.nextQuery.skipIf (s.askKeyDown ⟨(s.readV x).toNat, hk⟩)) ∨
    (15 < (s.readV x).toNat ∧ t = s.raiseIn .keyIndexOutOfRange (encode (.skp x)) none) := by
  simp only [exec, execSkp, skpWith, Host.Outcome.next.injEq] at h
  obtain ⟨hk, he⟩ | ⟨hk, he⟩ := keyIndex_cases (s.readV x) <;> rw [he] at h
  · exact .inl ⟨hk, h.symm⟩
  · exact .inr ⟨hk, h.symm⟩

/-- SKNP (R212): it asks the host and may skip, or raises KeyIndexOutOfRange. -/
theorem exec_sknp_cases {x : Reg} {s t : State} (h : exec (.sknp x) s = .next t) :
    (∃ hk : (s.readV x).toNat < 16, t = s.nextQuery.skipIf (!s.askKeyDown ⟨(s.readV x).toNat, hk⟩)) ∨
    (15 < (s.readV x).toNat ∧ t = s.raiseIn .keyIndexOutOfRange (encode (.sknp x)) none) := by
  simp only [exec, execSknp, sknpWith, Host.Outcome.next.injEq] at h
  obtain ⟨hk, he⟩ | ⟨hk, he⟩ := keyIndex_cases (s.readV x) <;> rw [he] at h
  · exact .inl ⟨hk, h.symm⟩
  · exact .inr ⟨hk, h.symm⟩

/-- LD VX, K (R214): it rewinds `pc`, or stores the key's index. -/
theorem exec_ldVxK_cases {x : Reg} {s t : State} (h : exec (.ldVxK x) s = .next t) :
    (s.askFirstKey = none ∧ t = s.nextQuery.setPc (s.pc - 2)) ∨
    (∃ k : Reg, s.askFirstKey = some k ∧ t = s.nextQuery.writeV x (BitVec.ofNat 8 k.val)) := by
  simp only [exec, execLdVxK, waitKeyWith, Host.Outcome.next.injEq] at h
  split at h
  · exact .inl ⟨‹_›, h.symm⟩
  · exact .inr ⟨_, ‹_›, h.symm⟩

end Sys2Proof.Machine
end

