-- ==== Sys2Proof/Laws/PerInstr.lean ====
section
/-!
SUPPORT. Per-instruction laws. Family `FixedBits`: an instruction's word has the fixed bits of its row of
spec/opcode_table.json.
-/

namespace Sys2Proof.Laws.FixedBits

/-- Every fixed field of the instruction's row holds in its encoding. -/
def Statement (i : Instr) : Prop := ∀ f ∈ fixedBits i, bits (encode i) f.1 f.2.1 = f.2.2

theorem bits_packNNN (o : Nat) (ho : o < 16) (nnn : Addr12) : bits (packNNN o nnn) 15 12 = o := by
  have := nnn.isLt
  rw [bits, toNat_packNNN ho]; omega

theorem bits_packXNN (o : Nat) (ho : o < 16) (x : Reg) (nn : Byte) : bits (packXNN o x nn) 15 12 = o := by
  have := nn.isLt
  rw [bits, toNat_packXNN ho]; omega

theorem bits_packXYN (o n : Nat) (ho : o < 16) (hn : n < 16) (x y : Reg) :
    bits (packXYN o x y n) 15 12 = o ∧ bits (packXYN o x y n) 3 0 = n := by
  rw [bits, bits, toNat_packXYN ho hn]; omega

theorem bits_packX (o f : Nat) (ho : o < 16) (hf : f < 256) (x : Reg) :
    bits (packX o x f) 15 12 = o ∧ bits (packX o x f) 7 0 = f := by
  rw [bits, bits, toNat_packX ho hf]; omega

theorem ofNNN {i : Instr} {o : Nat} (nnn : Addr12) (ho : o < 16) (he : encode i = packNNN o nnn)
    (hf : fixedBits i = [(15, 12, o)]) : Statement i := by
  intro f h
  rw [hf, List.mem_singleton] at h
  rw [h, he]; exact bits_packNNN o ho nnn

theorem ofXNN {i : Instr} {o : Nat} (x : Reg) (nn : Byte) (ho : o < 16) (he : encode i = packXNN o x nn)
    (hf : fixedBits i = [(15, 12, o)]) : Statement i := by
  intro f h
  rw [hf, List.mem_singleton] at h
  rw [h, he]; exact bits_packXNN o ho x nn

theorem ofXY {i : Instr} {o n : Nat} (x y : Reg) (ho : o < 16) (hn : n < 16) (he : encode i = packXYN o x y n)
    (hf : fixedBits i = [(3, 0, n), (15, 12, o)]) : Statement i := by
  intro f h
  rw [hf, List.mem_cons, List.mem_singleton] at h
  obtain h | h := h <;> rw [h, he]
  · exact (bits_packXYN o n ho hn x y).2
  · exact (bits_packXYN o n ho hn x y).1

theorem ofX {i : Instr} {o n : Nat} (x : Reg) (ho : o < 16) (hn : n < 256) (he : encode i = packX o x n)
    (hf : fixedBits i = [(7, 0, n), (15, 12, o)]) : Statement i := by
  intro f h
  rw [hf, List.mem_cons, List.mem_singleton] at h
  obtain h | h := h <;> rw [h, he]
  · exact (bits_packX o n ho hn x).2
  · exact (bits_packX o n ho hn x).1

theorem sys (nnn : Addr12) : Statement (.sys nnn) := ofNNN nnn (by decide) rfl rfl
theorem cls : Statement .cls := by intro f h; rw [List.mem_singleton.1 h]; rfl
theorem ret : Statement .ret := by intro f h; rw [List.mem_singleton.1 h]; rfl
theorem jp (nnn : Addr12) : Statement (.jp nnn) := ofNNN nnn (by decide) rfl rfl
theorem call (nnn : Addr12) : Statement (.call nnn) := ofNNN nnn (by decide) rfl rfl
theorem seImm (x : Reg) (nn : Byte) : Statement (.seImm x nn) := ofXNN x nn (by decide) rfl rfl
theorem sneImm (x : Reg) (nn : Byte) : Statement (.sneImm x nn) := ofXNN x nn (by decide) rfl rfl
theorem seReg (x y : Reg) : Statement (.seReg x y) := ofXY x y (by decide) (by decide) rfl rfl
theorem ldImm (x : Reg) (nn : Byte) : Statement (.ldImm x nn) := ofXNN x nn (by decide) rfl rfl
theorem addImm (x : Reg) (nn : Byte) : Statement (.addImm x nn) := ofXNN x nn (by decide) rfl rfl
theorem ldReg (x y : Reg) : Statement (.ldReg x y) := ofXY x y (by decide) (by decide) rfl rfl
theorem orReg (x y : Reg) : Statement (.orReg x y) := ofXY x y (by decide) (by decide) rfl rfl
theorem andReg (x y : Reg) : Statement (.andReg x y) := ofXY x y (by decide) (by decide) rfl rfl
theorem xorReg (x y : Reg) : Statement (.xorReg x y) := ofXY x y (by decide) (by decide) rfl rfl
theorem addReg (x y : Reg) : Statement (.addReg x y) := ofXY x y (by decide) (by decide) rfl rfl
theorem sub (x y : Reg) : Statement (.sub x y) := ofXY x y (by decide) (by decide) rfl rfl
theorem shr (x y : Reg) : Statement (.shr x y) := ofXY x y (by decide) (by decide) rfl rfl
theorem subn (x y : Reg) : Statement (.subn x y) := ofXY x y (by decide) (by decide) rfl rfl
theorem shl (x y : Reg) : Statement (.shl x y) := ofXY x y (by decide) (by decide) rfl rfl
theorem sneReg (x y : Reg) : Statement (.sneReg x y) := ofXY x y (by decide) (by decide) rfl rfl
theorem ldI (nnn : Addr12) : Statement (.ldI nnn) := ofNNN nnn (by decide) rfl rfl
theorem jpV0 (nnn : Addr12) : Statement (.jpV0 nnn) := ofNNN nnn (by decide) rfl rfl
theorem rnd (x : Reg) (nn : Byte) : Statement (.rnd x nn) := ofXNN x nn (by decide) rfl rfl
theorem drw (x y : Reg) (n : Fin 16) : Statement (.drw x y n) := by
  intro f h
  rw [List.mem_singleton.1 h]; exact (bits_packXYN 0xD n.val (by decide) n.isLt x y).1
theorem skp (x : Reg) : Statement (.skp x) := ofX x (by decide) (by decide) rfl rfl
theorem sknp (x : Reg) : Statement (.sknp x) := ofX x (by decide) (by decide) rfl rfl
theorem ldVxDt (x : Reg) : Statement (.ldVxDt x) := ofX x (by decide) (by decide) rfl rfl
theorem ldVxK (x : Reg) : Statement (.ldVxK x) := ofX x (by decide) (by decide) rfl rfl
theorem ldDtVx (x : Reg) : Statement (.ldDtVx x) := ofX x (by decide) (by decide) rfl rfl
theorem ldStVx (x : Reg) : Statement (.ldStVx x) := ofX x (by decide) (by decide) rfl rfl
theorem addIVx (x : Reg) : Statement (.addIVx x) := ofX x (by decide) (by decide) rfl rfl
theorem ldFVx (x : Reg) : Statement (.ldFVx x) := ofX x (by decide) (by decide) rfl rfl
theorem ldBVx (x : Reg) : Statement (.ldBVx x) := ofX x (by decide) (by decide) rfl rfl
theorem ldMemVx (x : Reg) : Statement (.ldMemVx x) := ofX x (by decide) (by decide) rfl rfl
theorem ldVxMem (x : Reg) : Statement (.ldVxMem x) := ofX x (by decide) (by decide) rfl rfl

end Sys2Proof.Laws.FixedBits
end

