-- ==== Sys2Proof/Laws/Step.lean ====
section
/-!
SUPPORT. One cycle: everything it can do, once (R96).
-/

namespace Sys2Proof.Machine

/-- What is raised before the fetch (R90, R91). -/
theorem State.prefetchFault_cases {s : State} {r : FaultRecord} (h : s.prefetchFault = some r) :
    (s.romLoaded = false ∧ r = ⟨.missingRom, s.pc, none, none⟩) ∨
    (s.romLoaded = true ∧ 4095 ≤ s.pc.toNat ∧ r = ⟨.invalidRamAddress, s.pc, none, some s.pc⟩) := by
  rw [State.prefetchFault] at h
  split at h
  · cases h; exact .inl ⟨‹_›, rfl⟩
  · split at h
    · cases h
    · rename_i hr hp
      rw [rangeOk_iff] at hp
      cases h; exact .inr ⟨by simpa using hr, by omega, rfl⟩

/-- A cycle that raises before its fetch. -/
theorem step_of_prefetchFault {s : State} {r : FaultRecord} (h0 : s.fault = none) (h : s.prefetchFault = some r) :
    step s = .next { s with fault := some r } := by
  unfold step
  split
  · simp_all
  · rw [h]; rfl

/-- A cycle that fetches and decodes. -/
theorem step_of_decode {s : State} {i : Instr} (h0 : s.fault = none) (h : s.prefetchFault = none)
    (hd : decode s.fetchWord = .ok i) : step s = exec i { s with pc := s.pc + 2 } := by
  unfold step
  split
  · simp_all
  · rw [h, hd]; rfl

/-- A cycle that fetches a word the decoder rejects. -/
theorem step_of_reject {s : State} {e : Reject} (h0 : s.fault = none) (h : s.prefetchFault = none)
    (hd : decode s.fetchWord = .error e) :
    step s = .next { s with pc := s.pc + 2, fault := some ⟨rejectKind e, s.pc, some s.fetchWord, none⟩ } := by
  unfold step
  split
  · simp_all
  · rw [h, hd]
    simp [State.raiseIn, State.raise, State.advance, State.setPc, State.fetchAddr]

/-- Everything a cycle can do when it has a step. -/
theorem step_cases {s t : State} (h : step s = .next t) :
    s.fault = none ∧
    ((∃ r, s.prefetchFault = some r ∧ t = { s with fault := some r }) ∨
     (s.prefetchFault = none ∧ ∃ i, decode s.fetchWord = .ok i ∧ exec i { s with pc := s.pc + 2 } = .next t) ∨
     (s.prefetchFault = none ∧ ∃ e, decode s.fetchWord = .error e ∧
      t = { s with pc := s.pc + 2, fault := some ⟨rejectKind e, s.pc, some s.fetchWord, none⟩ })) := by
  have h0 : s.fault = none := by
    rw [step] at h
    split at h
    · cases h
    · assumption
  refine ⟨h0, ?_⟩
  rcases hp : s.prefetchFault with _ | r
  · rcases hd : decode s.fetchWord with e | i
    · rw [step_of_reject h0 hp hd] at h; cases h; exact .inr (.inr ⟨rfl, e, rfl, rfl⟩)
    · rw [step_of_decode h0 hp hd] at h; exact .inr (.inl ⟨rfl, i, rfl, h⟩)
  · rw [step_of_prefetchFault h0 hp] at h; cases h; exact .inl ⟨r, rfl, rfl⟩

end Sys2Proof.Machine
end

