-- ==== Sys2Proof/Tests/Slice0.lean ====
section
/-!
SUPPORT. The model's own tests: words written out from spec/30_encoding.md, one-step vectors of spec/95_test_vectors.md
(named in each docstring), and for every statement with hypotheses a concrete state and operands that meet them.
-/

namespace Sys2Proof.Tests

open Sys2Proof.Machine Sys2Proof.Claims

/-! ## Helpers -/

/-- The outcome is a next state for which `p` holds. -/
def after (o : Host.Outcome State Fault Refusal) (p : State → Bool) : Bool :=
  match o with
  | .next t => p t
  | .fault _ => false
  | .refused _ => false

/-- S0 of spec/95_test_vectors.md with an empty ROM. -/
def s0 : State := { State.reset with romLoaded := true }

/-- S0 with the registers listed. -/
def withRegs (l : List (Reg × Byte)) : State := l.foldl (fun s p => s.writeV p.1 p.2) s0

/-- One cycle with the word `w` at `pc`. -/
def run (w : Nat) (s : State) : Host.Outcome State Fault Refusal := step (s.withFetchWord 16 w)

/-- The decoder rejects the word as InvalidOpcode. -/
def rejects (w : Word) : Bool :=
  match decode w with
  | .error .invalidOpcode => true
  | _ => false

/-- The pixels set are exactly the ones listed. -/
def pixelsAre (l : List (Fin 64 × Fin 32)) (g : Grid) : Bool :=
  g.toList.map (·.toList) == (l.foldl (fun g p => g.setPix p.1 p.2 true) Grid.blank).toList.map (·.toList)

/-- A sprite at I = 0x300 with its anchor in V0, V1 (the display vectors' start). -/
def spriteAt (bytes : List Byte) (x y : Byte) : State :=
  ((withRegs [(0, x), (1, y)]).setI 0x300).memWrite 0x300 bytes

/-! ## WellFormed refuses the terms that have no word of their own (R84) -/

theorem test_wf_refuses_sys_0E0 : (Instr.sys 0x0E0).wellFormed = false := by decide
theorem test_wf_refuses_sys_0EE : (Instr.sys 0x0EE).wellFormed = false := by decide
theorem test_wf_accepts_sys : (Instr.sys 0x000).wellFormed = true ∧ (Instr.sys 0x0E1).wellFormed = true := by decide

/-! ## Decoding: a word of every constructor, bit by bit from R81-R88 -/

theorem test_decode_family_0 :
    decode 0b0000000011100000#16 = .ok .cls ∧ decode 0b0000000011101110#16 = .ok .ret ∧
    decode 0b0000000000000000#16 = .ok (.sys 0x000) ∧ decode 0b0000000011100001#16 = .ok (.sys 0x0E1) ∧
    decode 0b0000000100100011#16 = .ok (.sys 0x123) := by decide

theorem test_decode_families_1_to_7 :
    decode 0b0001001000110100#16 = .ok (.jp 0x234) ∧ decode 0b0010101111001101#16 = .ok (.call 0xBCD) ∧
    decode 0b0011000110000010#16 = .ok (.seImm 1 0x82) ∧ decode 0b0100001001000001#16 = .ok (.sneImm 2 0x41) ∧
    decode 0b0101001001010000#16 = .ok (.seReg 2 5) ∧ decode 0b0110101001111011#16 = .ok (.ldImm 10 0x7B) ∧
    decode 0b0111110100000001#16 = .ok (.addImm 13 0x01) := by decide

theorem test_decode_family_8 :
    decode 0b1000000100100000#16 = .ok (.ldReg 1 2) ∧ decode 0b1000000100100001#16 = .ok (.orReg 1 2) ∧
    decode 0b1000000100100010#16 = .ok (.andReg 1 2) ∧ decode 0b1000000100100011#16 = .ok (.xorReg 1 2) ∧
    decode 0b1000000100100100#16 = .ok (.addReg 1 2) ∧ decode 0b1000000100100101#16 = .ok (.sub 1 2) ∧
    decode 0b1000000100100110#16 = .ok (.shr 1 2) ∧ decode 0b1000000100100111#16 = .ok (.subn 1 2) ∧
    decode 0b1000000100101110#16 = .ok (.shl 1 2) := by decide

theorem test_decode_families_9_to_D :
    decode 0b1001001101000000#16 = .ok (.sneReg 3 4) ∧ decode 0b1010001000001100#16 = .ok (.ldI 0x20C) ∧
    decode 0b1011111111111111#16 = .ok (.jpV0 0xFFF) ∧ decode 0b1100001100001111#16 = .ok (.rnd 3 0x0F) ∧
    decode 0b1101101011000101#16 = .ok (.drw 10 12 5) := by decide

theorem test_decode_families_E_F :
    decode 0b1110001010011110#16 = .ok (.skp 2) ∧ decode 0b1110001010100001#16 = .ok (.sknp 2) ∧
    decode 0b1111001100000111#16 = .ok (.ldVxDt 3) ∧ decode 0b1111001100001010#16 = .ok (.ldVxK 3) ∧
    decode 0b1111001100010101#16 = .ok (.ldDtVx 3) ∧ decode 0b1111001100011000#16 = .ok (.ldStVx 3) ∧
    decode 0b1111001100011110#16 = .ok (.addIVx 3) ∧ decode 0b1111001100101001#16 = .ok (.ldFVx 3) ∧
    decode 0b1111001100110011#16 = .ok (.ldBVx 3) ∧ decode 0b1111001101010101#16 = .ok (.ldMemVx 3) ∧
    decode 0b1111001101100101#16 = .ok (.ldVxMem 3) := by decide

/-- DEC6-DEC10. -/
theorem test_decode_invalid :
    ([0x5231#16, 0x9011#16, 0x8008#16, 0x8009#16, 0x800A#16, 0x800B#16, 0x800C#16, 0x800D#16, 0x800F#16] ++
      [0xE09F#16, 0xE0A0#16, 0xE000#16, 0xF000#16, 0xF008#16, 0xF0FF#16, 0xF056#16]).all rejects = true := by decide

theorem test_decode_short_input : decodeBytes [0x12] = .error .truncated := by decide

/-- The host's view: bits above `nbits` are 0, the bytes lie high byte first. -/
theorem test_decodeTableWord : decodeTableWord 16 0xD123 = some (.drw 1 2 3) ∧ decodeTableWord 16 0x5001 = none := by
  decide

/-! ## One cycle of each instruction (spec/95_test_vectors.md) -/

/-- DEC5, R305. -/
theorem test_sys : after (run 0x0123 s0) fun t =>
    t.fault == some ⟨.invalidOpcode, 0x200, some 0x0123, none⟩ && t.pc == 0x202 := by decide
/-- W6, DSP17. -/
theorem test_cls : after (run 0x00E0 { withRegs [(15, 0x44)] with pix := Grid.blank.setPix 63 31 true }) fun t =>
    pixelsAre [] t.pix && t.redraw && t.V[15] == 0x44 && t.pc == 0x202 := by decide
/-- W5. -/
theorem test_ret_underflow : after (run 0x00EE s0) fun t =>
    t.fault == some ⟨.stackUnderflow, 0x200, some 0x00EE, none⟩ && t.pc == 0x202 && t.sp == 0 := by decide
/-- CF8. -/
theorem test_ret : after (run 0x00EE { s0 with pc := 0x212, sp := 1, stack := s0.stack.set 0 0x206 }) fun t =>
    t.pc == 0x206 && t.sp == 0 := by decide
/-- W7. -/
theorem test_jp : after (run 0x1234 s0) fun t => t.pc == 0x234 := by decide
/-- CF5. -/
theorem test_call : after (run 0x2210 { s0 with pc := 0x204 }) fun t =>
    t.stack[0] == 0x206 && t.sp == 1 && t.pc == 0x210 := by decide
/-- CF6. -/
theorem test_call_overflow : after (run 0x2400 { s0 with pc := 0x300, sp := 16 }) fun t =>
    t.fault == some ⟨.stackOverflow, 0x300, some 0x2400, none⟩ && t.pc == 0x302 && t.sp == 16 := by decide
/-- CF11. -/
theorem test_seImm : after (run 0x3300 { s0 with pc := 0x208 }) fun t => t.pc == 0x20C := by decide
/-- CF12. -/
theorem test_seImm_no : after (run 0x3300 { withRegs [(3, 1)] with pc := 0x208 }) fun t => t.pc == 0x20A := by decide
/-- CF14. -/
theorem test_sneImm_no : after (run 0x4105 (withRegs [(1, 5)])) fun t => t.pc == 0x202 := by decide
/-- CF15. -/
theorem test_sneImm : after (run 0x4104 (withRegs [(1, 5)])) fun t => t.pc == 0x204 := by decide
/-- CF16. -/
theorem test_seReg : after (run 0x5250 (withRegs [(2, 7), (5, 7)])) fun t => t.pc == 0x204 := by decide
/-- CF17. -/
theorem test_seReg_no : after (run 0x5250 (withRegs [(2, 7), (5, 8)])) fun t => t.pc == 0x202 := by decide
/-- CF19. -/
theorem test_sneReg : after (run 0x9010 (withRegs [(0, 1), (1, 2)])) fun t => t.pc == 0x204 := by decide
/-- CF20. -/
theorem test_sneReg_no : after (run 0x9010 (withRegs [(0, 2), (1, 2)])) fun t => t.pc == 0x202 := by decide
/-- CF23. -/
theorem test_jpV0 : after (run 0xBFFF (withRegs [(0, 0xFF)])) fun t => t.pc == 0x10FE := by decide
/-- CF24. -/
theorem test_jpV0_not_vx : after (run 0xB500 (withRegs [(5, 0x40)])) fun t => t.pc == 0x500 := by decide
/-- IMM1. -/
theorem test_ldImm : after (run 0x6A7B s0) fun t => t.V[10] == 0x7B := by decide
/-- IMM4. -/
theorem test_addImm : after (run 0x7001 (withRegs [(0, 0xFF), (15, 0x77)])) fun t => t.V[0] == 0 && t.V[15] == 0x77 := by
  decide
/-- IMM5. -/
theorem test_addImm_vf : after (run 0x7F01 (withRegs [(15, 0xFF)])) fun t => t.V[15] == 0 := by decide
/-- IMM8. -/
theorem test_ldI : after (run 0xAFFF (s0.setI 0x1234)) fun t => t.I == 0x0FFF := by decide
/-- IMM9, with the draw as an argument. -/
theorem test_rnd : (rndWith 0xA7 3 0x0F s0).V[3] = 0x07 := by decide
/-- IMM10: the cycle completes whatever the draw is. -/
theorem test_rnd_runs : after (run 0xC300 (withRegs [(3, 9)])) fun t => t.pc == 0x202 && t.draws == 1 := by decide
/-- ALU1.1. -/
theorem test_ldReg : after (run 0x8010 (withRegs [(1, 0x2A), (15, 0x55)])) fun t => t.V[0] == 0x2A && t.V[15] == 0x55 := by
  decide
/-- ALU1.3. -/
theorem test_or : after (run 0x8011 (withRegs [(0, 0x0F), (1, 0xF0), (15, 0x55)])) fun t =>
    t.V[0] == 0xFF && t.V[15] == 0x55 := by decide
/-- ALU1.4. -/
theorem test_and : after (run 0x8012 (withRegs [(0, 0x3C), (1, 0x0F), (15, 0x55)])) fun t =>
    t.V[0] == 0x0C && t.V[15] == 0x55 := by decide
/-- ALU1.5. -/
theorem test_xor : after (run 0x8013 (withRegs [(0, 0xFF), (1, 0x0F), (15, 0x55)])) fun t =>
    t.V[0] == 0xF0 && t.V[15] == 0x55 := by decide
/-- ALU2.3. -/
theorem test_add : after (run 0x8014 (withRegs [(0, 0xFF), (1, 0x01)])) fun t => t.V[0] == 0 && t.V[15] == 1 := by decide
/-- ALU2.10. -/
theorem test_add_vf : after (run 0x8F14 (withRegs [(1, 0x20), (15, 0x10)])) fun t => t.V[15] == 0 := by decide
/-- ALU3.2. -/
theorem test_sub : after (run 0x8015 (withRegs [(0, 3), (1, 5), (15, 1)])) fun t => t.V[0] == 0xFE && t.V[15] == 0 := by
  decide
/-- ALU3.4. -/
theorem test_sub_equal : after (run 0x8015 (withRegs [(0, 7), (1, 7)])) fun t => t.V[0] == 0 && t.V[15] == 1 := by decide
/-- ALU3.8. -/
theorem test_subn : after (run 0x8017 (withRegs [(0, 3), (1, 5)])) fun t => t.V[0] == 2 && t.V[15] == 1 := by decide
/-- ALU3.9. -/
theorem test_subn_borrow : after (run 0x8017 (withRegs [(0, 5), (1, 3), (15, 1)])) fun t =>
    t.V[0] == 0xFE && t.V[15] == 0 := by decide
/-- ALU4.1 and ALU4.6: the two values of the quirk. -/
theorem test_shr :
    (shrWith false 0 1 (withRegs [(0, 5), (1, 0xFF)])).V.toList.take 2 = [2, 0xFF] ∧
    (shrWith false 0 1 (withRegs [(0, 5), (1, 0xFF)])).V[15] = 1 ∧
    (shrWith true 0 1 (withRegs [(0, 5), (1, 4), (15, 1)])).V.toList.take 2 = [2, 4] ∧
    (shrWith true 0 1 (withRegs [(0, 5), (1, 4), (15, 1)])).V[15] = 0 := by decide
/-- ALU4.10 and ALU4.15. -/
theorem test_shl :
    (shlWith false 0 1 (withRegs [(0, 0x81)])).V[0] = 2 ∧ (shlWith false 0 1 (withRegs [(0, 0x81)])).V[15] = 1 ∧
    (shlWith true 0 15 (withRegs [(15, 1)])).V[0] = 2 ∧ (shlWith true 0 15 (withRegs [(15, 1)])).V[15] = 0 := by decide
/-- W8. -/
theorem test_drw_clips : after (run 0xD011 (spriteAt [0xFF] 60 0)) fun t =>
    pixelsAre [(60, 0), (61, 0), (62, 0), (63, 0)] t.pix && t.V[15] == 0 && t.redraw && t.pc == 0x202 := by decide
/-- DSP9. -/
theorem test_drw_collides : after (run 0xD011 { spriteAt [0x3C] 60 0 with pix := Grid.blank.setPix 62 0 true }) fun t =>
    pixelsAre [(63, 0)] t.pix && t.V[15] == 1 := by decide
/-- DSP4: the anchor wraps, the rows are clipped. -/
theorem test_drawSprite_corner : pixelsAre [(63, 31)] (drawSprite [0xFF, 0xFF] 0xFF 0xFF Grid.blank).1 = true := by decide
/-- DSP14. -/
theorem test_drw_range : after (run 0xD012 ((withRegs [(15, 0x33)]).setI 0xFFF)) fun t =>
    t.fault == some ⟨.invalidRamAddress, 0x200, some 0xD012, some 0xFFF⟩ && pixelsAre [] t.pix && !t.redraw &&
    t.V[15] == 0x33 && t.pc == 0x202 := by decide
/-- KEY1, KEY2: the answers as arguments; `pc` is a + 2 = 0x302 in an instruction's meaning. -/
theorem test_skp :
    (skpWith (fun k => k == 10) 2 { withRegs [(2, 10)] with pc := 0x302 }).pc = 0x304 ∧
    (skpWith (fun k => k != 10) 2 { withRegs [(2, 10)] with pc := 0x302 }).pc = 0x302 := by decide
/-- KEY5. -/
theorem test_skp_range : after (run 0xE29E (withRegs [(2, 0x10)])) fun t =>
    t.fault == some ⟨.keyIndexOutOfRange, 0x200, some 0xE29E, none⟩ && t.pc == 0x202 && t.draws == 0 := by decide
/-- KEY3, KEY4. -/
theorem test_sknp :
    (sknpWith (fun k => k != 10) 2 { withRegs [(2, 10)] with pc := 0x302 }).pc = 0x304 ∧
    (sknpWith (fun k => k == 10) 2 { withRegs [(2, 10)] with pc := 0x302 }).pc = 0x302 := by decide
/-- KEY6. -/
theorem test_sknp_range : after (run 0xE2A1 (withRegs [(2, 0xFF)])) fun t =>
    t.fault == some ⟨.keyIndexOutOfRange, 0x200, some 0xE2A1, none⟩ := by decide
/-- KEY7. -/
theorem test_ldVxDt : after (run 0xF507 (s0.setDT 0x3C)) fun t => t.V[5] == 0x3C && t.DT == 0x3C := by decide
/-- KEY8, KEY9. -/
theorem test_ldVxK :
    (waitKeyWith none 3 { withRegs [(3, 9)] with pc := 0x212 }).pc = 0x210 ∧
    (waitKeyWith none 3 { withRegs [(3, 9)] with pc := 0x212 }).V[3] = 9 ∧
    (waitKeyWith (some 7) 3 { s0 with pc := 0x212 }).pc = 0x212 ∧
    (waitKeyWith (some 7) 3 { s0 with pc := 0x212 }).V[3] = 7 := by decide
/-- KEY11. -/
theorem test_ldDtVx : after (run 0xF015 (withRegs [(0, 0x3C)])) fun t => t.DT == 0x3C && t.ST == 0 := by decide
/-- KEY12. -/
theorem test_ldStVx : after (run 0xF118 (withRegs [(1, 2)])) fun t => t.ST == 2 && t.DT == 0 && t.checkBeep := by decide
/-- IDX2. -/
theorem test_addI : after (run 0xF41E ((withRegs [(4, 1)]).setI 0xFFF)) fun t => t.I == 0x1000 && t.V[15] == 0 := by decide
/-- IDX3. -/
theorem test_addI_wraps : after (run 0xF41E ((withRegs [(4, 2)]).setI 0xFFFF)) fun t => t.I == 1 := by decide
/-- IDX4. -/
theorem test_ldF : after (run 0xFA29 (withRegs [(10, 0x0A)])) fun t => t.I == 0x082 := by decide
/-- IDX7. -/
theorem test_ldF_unmasked : after (run 0xFA29 (withRegs [(10, 0xFF)])) fun t => t.I == 0x54B := by decide
/-- IDX9. -/
theorem test_ldB : after (run 0xFA33 ((withRegs [(10, 0xFF)]).setI 0x300)) fun t =>
    t.memRead 0x300 4 == [2, 5, 5, 0] && t.I == 0x300 := by decide
/-- IDX12. -/
theorem test_ldB_range : after (run 0xFA33 ((withRegs [(10, 9)]).setI 0xFFE)) fun t =>
    t.fault == some ⟨.invalidRamAddress, 0x200, some 0xFA33, some 0xFFE⟩ && t.memRead 0xFFD 3 == [0, 0, 0] := by decide
/-- IDX13. -/
theorem test_ldMem : after (run 0xF255 ((withRegs [(0, 1), (1, 2), (2, 3), (3, 4)]).setI 0x400)) fun t =>
    t.memRead 0x400 4 == [1, 2, 3, 0] && t.I == 0x400 := by decide
/-- IDX15. -/
theorem test_ldMem_range : after (run 0xF155 ((withRegs [(0, 0xAA)]).setI 0xFFF)) fun t =>
    t.fault == some ⟨.invalidRamAddress, 0x200, some 0xF155, some 0xFFF⟩ && t.memRead 0xFFF 1 == [0] := by decide
/-- IDX17. -/
theorem test_ldVxMem : after (run 0xF265 ((s0.setI 0x300).memWrite 0x300 [1, 2, 3, 4])) fun t =>
    t.V.toList.take 4 == [1, 2, 3, 0] && t.I == 0x300 := by decide
/-- IDX20. -/
theorem test_ldVxMem_range : after (run 0xFF65 ((withRegs [(0, 0x77)]).setI 0xFF1)) fun t =>
    t.fault == some ⟨.invalidRamAddress, 0x200, some 0xFF65, some 0xFF1⟩ && t.V[0] == 0x77 := by decide

/-! ## The cycle and the host's transactions -/

/-- CYC1. -/
theorem test_missing_rom : after (step State.reset) fun t =>
    t.fault == some ⟨.missingRom, 0x200, none, none⟩ && t.pc == 0x200 := by decide
/-- CYC2. -/
theorem test_no_step : step { s0 with fault := some ⟨.missingRom, 0x200, none, none⟩ } =
    .fault (.halted ⟨.missingRom, 0x200, none, none⟩) := by rfl
/-- CYC6. -/
theorem test_fetch_range : after (step { s0 with pc := 0xFFF }) fun t =>
    t.fault == some ⟨.invalidRamAddress, 0xFFF, none, some 0xFFF⟩ && t.pc == 0xFFF := by decide
/-- CYC4. -/
theorem test_last_word : after (run 0x60AB { s0 with pc := 0xFFE }) fun t => t.V[0] == 0xAB && t.pc == 0x1000 := by decide
/-- CYC8. -/
theorem test_odd_fetch : after (run 0x6122 { s0 with pc := 0x201 }) fun t => t.V[1] == 0x22 && t.pc == 0x203 := by decide
/-- KEY14, W10, KEY15. -/
theorem test_tick : (s0.setDT 3).tickTimers = s0.setDT 2 ∧ s0.tickTimers = s0 ∧
    ({ s0 with DT := 2, fault := some ⟨.missingRom, 0x200, none, none⟩ } : State).tickTimers.DT = 1 := by decide
/-- HOST4. -/
theorem test_loadRom : (s0.memWrite 0x300 [0x99]).loadRom [0x12, 0x34] =
    some ((s0.memWrite 0x300 [0x99]).memWrite 0x200 [0x12, 0x34]) := by decide
/-- HOST1: the entries of the stack survive, the rest does not. -/
theorem test_reset : ({ withRegs [(1, 1)] with sp := 1, stack := s0.stack.set 0 0x206, pc := 0x300 } : State).resetCore =
    { State.reset with stack := s0.stack.set 0 0x206 } := by decide
/-- DSP18. -/
theorem test_takeRedraw : ({ s0 with redraw := true } : State).takeRedraw = (s0, true) ∧ s0.takeRedraw = (s0, false) := by
  decide
/-- The codes of R300's table. -/
theorem test_fault_codes : [FaultKind.missingRom, .invalidRamAddress, .invalidOpcode, .unknownOpcode, .stackOverflow,
    .stackUnderflow, .invalidRomSize, .keyIndexOutOfRange].map FaultKind.code = [1, 2, 3, 4, 5, 6, 7, 8] := by decide
/-- R46's default table has the parameter's length; glyph A is the one P7 draws. -/
theorem test_fontDefault : Config.fontDefault.length = 80 ∧
    (Config.fontDefault.drop 50).take 5 = [0xF0, 0x90, 0xF0, 0x90, 0x90] := by decide

/-! ## Witnesses: for every statement with hypotheses, a state and operands that meet them -/

/-- The state of an instruction at fetch address 0x200, with something in every kind of state. -/
def sx : State :=
  { withRegs [(0, 15), (1, 16), (2, 0x34)] with
    pc := 0x202, I := 0x300, DT := 7, ST := 9, sp := 1, stack := s0.stack.set 0 0x20A, mem := [(0x300, 0x80#8)] }

theorem witness_SysRaisesInvalidOpcode : ((0x000#12 : Addr12) ≠ 0x0E0#12 ∧ (0x000#12 : Addr12) ≠ 0x0EE#12) ∧
    ((0xFFF#12 : Addr12) ≠ 0x0E0#12 ∧ (0xFFF#12 : Addr12) ≠ 0x0EE#12) := by decide
theorem witness_RetPopsReturnAddress : sx.sp.val = (0 : Fin 16).val + 1 ∧
    ({ sx with sp := 16 } : State).sp.val = (15 : Fin 16).val + 1 ∧ s0.sp.val = 0 := by decide
theorem witness_CallPushesReturnAddress : s0.sp.val = (0 : Fin 16).val ∧
    ({ sx with sp := 15 } : State).sp.val = (15 : Fin 16).val ∧ ({ sx with sp := 16 } : State).sp.val = 16 := by decide
theorem witness_CallThenRetReturns : ({ sx with sp := 15 } : State).sp.val < 16 := by decide
theorem witness_JumpToSelfIdles : fetches (s0.withFetchWord 16 0x1200) ∧
    (s0.withFetchWord 16 0x1200).fetchWord.toNat = 0x1000 + (s0.withFetchWord 16 0x1200).pc.toNat := by
  unfold fetches; decide
theorem witness_RndMasksRandomByte : ∃ t, exec (.rnd 3 0x0F) sx = .next t := ⟨_, rfl⟩
theorem witness_FlagIdentities : (3 : Reg) ≠ 4 ∧ (3 : Reg) ≠ 15 ∧ (4 : Reg) ≠ 15 := by decide
theorem witness_DrwDrawsOrRaises :
    (sx.setI 0xFFF).I.toNat + (1 : Fin 16).val ≤ 4096 ∧ (sx.setI 0x1000).I.toNat + (0 : Fin 16).val ≤ 4096 ∧
    4096 < (sx.setI 0xFFF).I.toNat + (2 : Fin 16).val ∧ 4096 < (sx.setI 0x1001).I.toNat + (0 : Fin 16).val := by decide
theorem witness_DrawTwiceRestores : ∀ (x : Fin 64) (y : Fin 32),
    spriteBit [0xFF] 60 0 x y = true → Grid.blank.pix x y = false := fun x y _ => Grid.pix_blank x y
theorem witness_SkpSkipsWhenDown : (sx.V[0]).toNat = (15 : Reg).val ∧ 15 < (sx.V[1]).toNat := by decide
theorem witness_SknpSkipsWhenUp : (sx.V[3]).toNat = (0 : Reg).val ∧ 15 < (sx.V[2]).toNat := by decide
theorem witness_CycleChangesTimersOnlyByLoads :
    after (step (s0.withFetchWord 16 0xF015 |>.writeV 0 5)) (fun t => t.DT != s0.DT) ∧
    after (step (s0.withFetchWord 16 0xF018 |>.writeV 0 5)) (fun t => t.ST != s0.ST) := by decide
theorem witness_LdBStoresDigits : sx.mem.wf = true ∧ (sx.setI 0xFFD).I.toNat + 3 ≤ 4096 ∧
    4096 < (sx.setI 0xFFE).I.toNat + 3 := by decide
theorem witness_LdMemStoresRegisters : sx.mem.wf = true ∧ (sx.setI 0xFFF).I.toNat + (0 : Reg).val + 1 ≤ 4096 ∧
    4096 < (sx.setI 0xFFF).I.toNat + (1 : Reg).val + 1 := by decide
theorem witness_LdVxLoadsRegisters : (sx.setI 0xFF0).I.toNat + (15 : Reg).val + 1 ≤ 4096 ∧
    4096 < (sx.setI 0xFF1).I.toNat + (15 : Reg).val + 1 := by decide
theorem witness_StoreThenLoadRestoresRegisters : sx.mem.wf = true ∧ (sx.setI 0xFF0).I.toNat + (15 : Reg).val + 1 ≤ 4096 := by
  decide
theorem witness_StoreIsSeenByNextFetch : ({ sx with I := 0x202 } : State).mem.wf = true ∧
    ({ sx with I := 0x202 } : State).I.toNat + (1 : Reg).val + 1 ≤ 4096 ∧ 1 ≤ (1 : Reg).val ∧
    ({ sx with I := 0x202 } : State).pc = ({ sx with I := 0x202 } : State).I := by decide
theorem witness_CycleWithoutRomRaises : State.reset.fault = none ∧ State.reset.romLoaded = false := by decide
theorem witness_CycleFetchOutOfRangeRaises :
    sx.fault = none ∧ sx.romLoaded = true ∧ 4095 ≤ (sx.setPc 4095).pc.toNat := by decide
theorem witness_CycleExecutesDecodedInstruction : fetches ({ s0 with pc := 4094 }.withFetchWord 16 0x6A7B) ∧
    (0x6A7B#16).toNat = (({ s0 with pc := 4094 }.withFetchWord 16 0x6A7B).mem.read 4094).toNat * 256 +
      (({ s0 with pc := 4094 }.withFetchWord 16 0x6A7B).mem.read 4095).toNat ∧
    decode 0x6A7B#16 = .ok (.ldImm 10 0x7B) := by unfold fetches; decide
theorem witness_CycleInvalidWordRaises : fetches (s0.withFetchWord 16 0x800F) ∧ invalidWord 0x800F#16 ∧
    (0x800F#16).toNat = ((s0.withFetchWord 16 0x800F).mem.read 0x200).toNat * 256 +
      ((s0.withFetchWord 16 0x800F).mem.read 0x201).toNat := by
  refine ⟨by unfold fetches; decide, by unfold invalidWord; decide, by decide⟩
theorem witness_invalidWord_5_9 : invalidWord 0x500F#16 ∧ invalidWord 0x9AB1#16 := by
  refine ⟨?_, ?_⟩ <;> unfold invalidWord <;> decide
theorem witness_invalidWord_8_E_F : invalidWord 0x8008#16 ∧ invalidWord 0xE000#16 ∧ invalidWord 0xFFFF#16 := by
  refine ⟨?_, ?_, ?_⟩ <;> unfold invalidWord <;> decide
theorem witness_StepStopsExactlyWhenLatched :
    ({ s0 with fault := some ⟨.missingRom, 0x200, none, none⟩ } : State).fault = some ⟨.missingRom, 0x200, none, none⟩ ∧
    s0.fault = none := by decide
theorem witness_RaisingCycleChangesNothingElse :
    after (step State.reset) (fun t => t.fault == some ⟨.missingRom, 0x200, none, none⟩) ∧
    after (run 0x00EE s0) (fun t => t.fault == some ⟨.stackUnderflow, 0x200, some 0x00EE, none⟩) := by decide
theorem witness_FaultsByInstruction : sx.fault = none ∧
    after (exec (.ldBVx 0) (sx.setI 0xFFE)) (fun t => t.fault == some ⟨.invalidRamAddress, 0x200, some 0xF033, some 0xFFE⟩) ∧
    after (exec (.skp 1) sx) (fun t => t.fault == some ⟨.keyIndexOutOfRange, 0x200, some 0xE19E, none⟩) := by decide
theorem witness_FetchedWordIsExecuted : sx.mem.wf = true ∧ decodeTableWord 16 0xF255 = some (.ldMemVx 2) := by decide
theorem witness_RegisterFrame : after (exec (.ldVxMem 14) sx) (fun t => t.V[15] == sx.V[15]) ∧
    writesReg (.ldVxMem 14) 15 = false := by decide
theorem witness_SpecialStateFrame : after (exec (.addReg 0 1) sx) (fun t => t.DT == 7) ∧
    writesI (.addReg 0 1) = false ∧ usesStack (.addReg 0 1) = false ∧ writesDisplay (.addReg 0 1) = false ∧
    ((∀ x, Instr.addReg 0 1 ≠ .ldDtVx x) ∧ (∀ x, Instr.addReg 0 1 ≠ .ldStVx x)) ∧
    ∀ k, canRaise (.addReg 0 1) k = false := by
  refine ⟨by decide, by decide, by decide, by decide, ⟨by simp, by simp⟩, fun k => rfl⟩
theorem witness_MemoryFrame : sx.mem.wf = true ∧ after (exec (.ldMemVx 1) sx) (fun t => t.fault == none) ∧
    sx.I.toNat + storeLength (.ldMemVx 1) ≤ 0x302 := by decide
theorem witness_PcAfterEachInstruction : after (exec (.call 0x345) sx) (fun t => t.fault == none) := by decide
theorem witness_MemReadAfterMemWrite : sx.mem.wf = true ∧ 4095 + [1#8].length ≤ 4096 ∧ 4096 + ([] : List Byte).length ≤ 4096 :=
  by decide
theorem witness_EqualMemoriesAreEqualData : sx.mem.wf = true ∧ (Memory.write [] 0x300 0x80#8).wf = true ∧
    ∀ a : Nat, a < 4096 → sx.mem.read a = (Memory.write [] 0x300 0x80#8).read a := ⟨by decide, by decide, fun _ _ => rfl⟩
theorem witness_LoadRomCopiesOrRejects : sx.mem.wf = true ∧ (List.replicate 3584 (0#8 : Byte)).length ≤ 3584 ∧
    3584 < (List.replicate 3585 (0#8 : Byte)).length :=
  ⟨by decide, by rw [List.length_replicate], by rw [List.length_replicate]; omega⟩
theorem witness_CycleReportsFault :
    ({ s0 with fault := some ⟨.missingRom, 0x200, none, none⟩ } : State).fault = some ⟨.missingRom, 0x200, none, none⟩ ∧
    State.reset.fault = none := by decide
/-- A state that meets the invariant and steps: CALL at the last word of memory, from which 0x1000 is pushed. -/
theorem witness_StepKeepsInvariant : ({ sx with pc := 0xFFE }.withFetchWord 16 0x2200).Inv ∧
    after (step ({ sx with pc := 0xFFE }.withFetchWord 16 0x2200)) (fun t => t.stack[1] == 0x1000) :=
  ⟨⟨by decide, by decide, by decide, by decide⟩, by decide⟩
theorem witness_ReachableStatesMeetInvariant : Reachable ((State.reset.perform (.loadRom [0x00, 0xE0])).1.perform .cycle).1 :=
  .perform _ (.perform _ .construct)
/-- The two directions of the statements that are equivalences. -/
theorem witness_equivalences : decode 0x00E0#16 = .ok .cls ∧ decode 0x5001#16 = .error .invalidOpcode ∧
    256 ≤ (0xFF#8).toNat + (0x01#8).toNat ∧ (Grid.blank.setPix 60 0 true).pix 60 0 = true ∧
    spriteBit [0xFF] 60 0 60 0 = true := by decide

end Sys2Proof.Tests
end

section
/-!
The fetch of a cycle (R90, R91, R94): a cycle that gets as far as its fetch raises nothing before it, and what it fetches
is the big-endian word of the two bytes at `pc`. With the model's `step_of_decode`, these settle O37.
-/

namespace Sys2Proof.Proofs

open Sys2Proof.Machine Sys2Proof.Claims

/-- R90, R91: both checks before the fetch pass. -/
theorem prefetchFault_eq_none_of_fetches {s : State} (h : fetches s) : s.prefetchFault = none := by
  obtain ⟨-, hrom, hpc⟩ := h
  exact s.prefetchFault_none_iff.mpr ⟨hrom, hpc⟩

/-- R94: the fetched word is big-endian. -/
theorem toNat_fetchWord (s : State) :
    s.fetchWord.toNat = (s.mem.read s.pc.toNat).toNat * 256 + (s.mem.read (s.pc.toNat + 1)).toNat :=
  toNat_wordOf _ _

/-- The bytes at `pc` determine the fetched word. -/
theorem fetchWord_eq_of_toNat_eq {s : State} {op : Word}
    (h : op.toNat = (s.mem.read s.pc.toNat).toNat * 256 + (s.mem.read (s.pc.toNat + 1)).toNat) : s.fetchWord = op :=
  BitVec.eq_of_toNat_eq ((toNat_fetchWord s).trans h.symm)

/-- Settles O37: the bytes make `op` the word the cycle fetches, nothing is raised before the fetch, and a cycle that
fetches a word that decodes executes it with `pc` advanced. -/
theorem cycleExecutesDecodedInstruction : Obligations.CycleExecutesDecodedInstruction := by
  intro s op i hs hop hd
  have hfetch : s.fetchWord = op := fetchWord_eq_of_toNat_eq hop
  have hlatch : s.fault = none := hs.1
  exact step_of_decode hlatch (prefetchFault_eq_none_of_fetches hs) (hfetch ▸ hd)

end Sys2Proof.Proofs
end

section
/-!
Jumps and skips on an immediate (R103, R105, R106): what the decoder reads from the words of the formats `NNN` and `XNN` as
the statements write them, and one equation per meaning. These settle O3 and O5.
-/

namespace Sys2Proof.Proofs

open Sys2Proof.Machine Sys2Proof.Claims

/-! ### Words of the formats `NNN` and `XNN` (R81) -/

theorem wordNNN_eq_packNNN (o : Nat) (nnn : Addr12) : wordNNN o nnn = packNNN o nnn := by
  rw [wordNNN, packNNN, Nat.mul_comm]

theorem wordXNN_eq_packXNN (o : Nat) (x : Reg) (nn : Byte) : wordXNN o x nn.toNat = packXNN o x nn := by
  rw [wordXNN, packXNN, Nat.mul_comm 0x1000, Nat.mul_comm 0x100]

theorem fields_wordNNN {o : Nat} (ho : o < 16) (nnn : Addr12) :
    bits (wordNNN o nnn) 15 12 = o ∧ fieldNNN (wordNNN o nnn) = nnn :=
  fields_NNN (wordNNN_eq_packNNN o nnn ▸ toNat_packNNN ho nnn)

theorem fields_wordXNN {o : Nat} (ho : o < 16) (x : Reg) (nn : Byte) :
    bits (wordXNN o x nn.toNat) 15 12 = o ∧ fieldX (wordXNN o x nn.toNat) = x ∧ fieldNN (wordXNN o x nn.toNat) = nn :=
  fields_XNN (wordXNN_eq_packXNN o x nn ▸ toNat_packXNN ho x nn)

theorem decode_jp (nnn : Addr12) : decode (wordNNN 1 nnn) = .ok (.jp nnn) := by
  obtain ⟨hcat, hnnn⟩ := fields_wordNNN (o := 1) (by decide) nnn
  simp only [decode, hcat, hnnn]

theorem decode_seImm (x : Reg) (nn : Byte) : decode (wordXNN 3 x nn.toNat) = .ok (.seImm x nn) := by
  obtain ⟨hcat, hx, hnn⟩ := fields_wordXNN (o := 3) (by decide) x nn
  simp only [decode, hcat, hx, hnn]

theorem decode_sneImm (x : Reg) (nn : Byte) : decode (wordXNN 4 x nn.toNat) = .ok (.sneImm x nn) := by
  obtain ⟨hcat, hx, hnn⟩ := fields_wordXNN (o := 4) (by decide) x nn
  simp only [decode, hcat, hx, hnn]

/-! ### The meanings -/

/-- R82: the widened immediate, as the number it stands for. -/
theorem zextAddr_eq_ofNat (nnn : Addr12) : zextAddr nnn = BitVec.ofNat 16 nnn.toNat :=
  (BitVec.ofNat_toNat 16 nnn).symm

/-- R103. -/
theorem exec_jp (nnn : Addr12) (s : State) : exec (.jp nnn) s = .next { s with pc := zextAddr nnn } := rfl

/-- R105: the skip is on equality. -/
theorem exec_seImm (x : Reg) (nn : Byte) (s : State) :
    exec (.seImm x nn) s = .next (if s.readV x = nn then { s with pc := s.pc + 2 } else s) :=
  congrArg Host.Outcome.next (s.skipIf_decide (s.readV x = nn))

/-- R106: the skip is on difference, so on equality the state stays. -/
theorem exec_sneImm (x : Reg) (nn : Byte) (s : State) :
    exec (.sneImm x nn) s = .next (if s.readV x = nn then s else { s with pc := s.pc + 2 }) := by
  have hskip : exec (.sneImm x nn) s = .next (if s.readV x ≠ nn then { s with pc := s.pc + 2 } else s) :=
    congrArg Host.Outcome.next (s.skipIf_decide (s.readV x ≠ nn))
  rw [hskip, ite_not]

/-! ### The obligations -/

/-- Settles O3: the word decodes by its category digit, and the meaning of JP writes only `pc`. -/
theorem jpSetsPc : Obligations.JpSetsPc := by
  intro nnn s
  refine ⟨decode_jp nnn, ?_⟩
  rw [exec_jp, zextAddr_eq_ofNat]

/-- Settles O5: the words decode by their category digits, and each meaning is one skip on `V[X] = NN`, respectively on its
negation. -/
theorem skipsOnImmediate : Obligations.SkipsOnImmediate := fun x nn s =>
  ⟨decode_seImm x nn, decode_sneImm x nn, exec_seImm x nn s, exec_sneImm x nn s⟩

end Sys2Proof.Proofs
end

section
/-!
Immediate loads and the immediate addition (R130, R131, R132): what the decoder reads from their words, and one equation per
meaning. These settle O10 and O11.
-/

namespace Sys2Proof.Proofs

open Sys2Proof.Machine Sys2Proof.Claims

theorem decode_ldImm (x : Reg) (nn : Byte) : decode (wordXNN 6 x nn.toNat) = .ok (.ldImm x nn) := by
  obtain ⟨hcat, hx, hnn⟩ := fields_wordXNN (o := 6) (by decide) x nn
  simp only [decode, hcat, hx, hnn]

theorem decode_addImm (x : Reg) (nn : Byte) : decode (wordXNN 7 x nn.toNat) = .ok (.addImm x nn) := by
  obtain ⟨hcat, hx, hnn⟩ := fields_wordXNN (o := 7) (by decide) x nn
  simp only [decode, hcat, hx, hnn]

theorem decode_ldI (nnn : Addr12) : decode (wordNNN 0xA nnn) = .ok (.ldI nnn) := by
  obtain ⟨hcat, hnnn⟩ := fields_wordNNN (o := 0xA) (by decide) nnn
  simp only [decode, hcat, hnnn]

/-- R130. -/
theorem exec_ldImm (x : Reg) (nn : Byte) (s : State) : exec (.ldImm x nn) s = .next (s.writeV x nn) := rfl

/-- R131. -/
theorem exec_addImm (x : Reg) (nn : Byte) (s : State) : exec (.addImm x nn) s = .next (s.writeV x (s.readV x + nn)) := rfl

/-- R132. -/
theorem exec_ldI (nnn : Addr12) (s : State) : exec (.ldI nnn) s = .next (s.setI (zextAddr nnn)) := rfl

/-- R131: the sum of two bytes is their sum as numbers, mod 256. -/
theorem add_eq_ofNat_mod (a b : Byte) : a + b = BitVec.ofNat 8 ((a.toNat + b.toNat) % 256) :=
  BitVec.eq_of_toNat_eq (by rw [BitVec.toNat_add, BitVec.toNat_ofNat, Nat.mod_mod])

/-- Settles O10: the words decode by their category digits, one meaning writes only `V[X]`, the other only `I`, with the
immediate widened. -/
theorem loadsImmediate : Obligations.LoadsImmediate := by
  intro x nn nnn s
  refine ⟨decode_ldImm x nn, decode_ldI nnn, exec_ldImm x nn s, ?_⟩
  rw [exec_ldI, zextAddr_eq_ofNat, State.setI]

/-- Settles O11: the word decodes by its category digit, and the one write is of the sum of `V[X]` and `NN` as bytes, which
wraps. -/
theorem addImmediateWraps : Obligations.AddImmediateWraps := by
  intro x nn s
  refine ⟨decode_addImm x nn, ?_⟩
  rw [exec_addImm, add_eq_ofNat_mod, State.writeV, State.readV]

end Sys2Proof.Proofs
end

section
/-!
The draw algorithm (R180-R184). Each of its loops XORs a set of bits into the grid, no two of them on one pixel, and
turns the collision bit on iff one of them meets a set pixel: `Draws` says so of a run of a loop, and the bits of two runs,
one after the other, add up (`Draws.seq`). This settles O22.
-/

namespace Sys2Proof.Proofs

open Sys2Proof.Machine Sys2Proof.Claims

/-! ### Drawing a set of bits -/

/-- A set of bits to draw: the bit that lands on pixel `(x, y)`. -/
abbrev Mask := Fin 64 → Fin 32 → Bool

/-- R184: some bit of `m` erases a set pixel of `g`. -/
def Erases (m : Mask) (g : Grid) : Prop := ∃ (x : Fin 64) (y : Fin 32), g.pix x y = true ∧ m x y = true

/-- `r` is what drawing `m` makes of the grid `g` and the collision bit `col` so far. -/
structure Draws (m : Mask) (g : Grid) (col : Bool) (r : Grid × Bool) : Prop where
  pix : ∀ (x : Fin 64) (y : Fin 32), r.1.pix x y = (g.pix x y ^^ m x y)
  collision : r.2 = true ↔ col = true ∨ Erases m g

/-- The one bit `bit` on pixel `(x, y)`. -/
def pixelMask (x y : Nat) (bit : Bool) : Mask := fun x' y' => decide (x'.val = x ∧ y'.val = y) && bit

theorem pixelMask_eq_true_iff {x y : Nat} {bit : Bool} {x' : Fin 64} {y' : Fin 32} :
    pixelMask x y bit x' y' = true ↔ (x'.val = x ∧ y'.val = y) ∧ bit = true := by
  rw [pixelMask, Bool.and_eq_true, decide_eq_true_iff]

/-- A draw none of whose bits lands on the grid changes nothing. -/
theorem draws_of_no_bit {m : Mask} (hm : ∀ x y, m x y = false) (g : Grid) (col : Bool) : Draws m g col (g, col) where
  pix x y := by rw [hm, Bool.xor_false]
  collision := by simp [Erases, hm]

/-- R184: one step of the inner loop. -/
theorem draws_setPix (x : Fin 64) (y : Fin 32) (bit : Bool) (g : Grid) (col : Bool) :
    Draws (pixelMask x.val y.val bit) g col (g.setPix x y (g.pix x y ^^ bit), col || (g.pix x y && bit)) where
  pix x' y' := by
    rw [Grid.pix_setPix]
    by_cases h : x' = x ∧ y' = y
    · obtain ⟨rfl, rfl⟩ := h
      simp [pixelMask]
    · simp [pixelMask, ← Fin.ext_iff, h]
  collision := by simp [Erases, pixelMask_eq_true_iff, ← Fin.ext_iff]

/-- A bit of `m₂` falls on no bit of `m₁`, so it finds the pixel as it was in `g`. -/
theorem Draws.erases_iff {m₁ m₂ : Mask} {g : Grid} {col : Bool} {r : Grid × Bool} (h : Draws m₁ g col r)
    (hdisj : ∀ x y, m₁ x y = true → m₂ x y = false) : Erases m₂ r.1 ↔ Erases m₂ g := by
  have hpix : ∀ x y, m₂ x y = true → r.1.pix x y = g.pix x y := fun x y hbit => by
    have hfree : m₁ x y = false := Bool.eq_false_of_not_eq_true fun h₁ => by simp [hdisj x y h₁] at hbit
    rw [h.pix, hfree, Bool.xor_false]
  exact exists₂_congr fun x y => and_congr_left fun hbit => by rw [hpix x y hbit]

/-- Two draws in a row that share no pixel are one draw of the bits of both. -/
theorem Draws.seq {m m₁ m₂ : Mask} {g : Grid} {col : Bool} {r r' : Grid × Bool}
    (h₁ : Draws m₁ g col r) (h₂ : Draws m₂ r.1 r.2 r')
    (hdisj : ∀ x y, m₁ x y = true → m₂ x y = false) (hm : ∀ x y, m x y = (m₁ x y || m₂ x y)) : Draws m g col r' where
  pix x y := by
    have hxor : m x y = (m₁ x y ^^ m₂ x y) := by
      rw [hm]
      cases h : m₁ x y with
      | false => rw [Bool.false_or, Bool.false_xor]
      | true => rw [hdisj x y h]; rfl
    rw [h₂.pix, h₁.pix, hxor, Bool.xor_assoc]
  collision := by
    have herases : Erases m g ↔ Erases m₁ g ∨ Erases m₂ g := by
      simp only [Erases, hm, Bool.or_eq_true, and_or_left, exists_or]
    rw [h₂.collision, h₁.collision, h₁.erases_iff hdisj, herases, or_assoc]

/-! ### The inner loop: the bits of one row -/

/-- Where the `n` bits of a row's byte from the `b`-th on land, counted from the left from 0 at column `x0` of row `y`. -/
def rowMask (byte : Byte) (x0 y b n : Nat) : Mask := fun x' y' =>
  decide (y'.val = y) && decide (x0 + b ≤ x'.val) && decide (x'.val < x0 + b + n) && byte.getLsbD (7 - (x'.val - x0))

theorem rowMask_eq_true_iff {byte : Byte} {x0 y b n : Nat} {x' : Fin 64} {y' : Fin 32} :
    rowMask byte x0 y b n x' y' = true ↔
      y'.val = y ∧ x0 + b ≤ x'.val ∧ x'.val < x0 + b + n ∧ byte.getLsbD (7 - (x'.val - x0)) = true := by
  simp only [rowMask, Bool.and_eq_true, decide_eq_true_iff, and_assoc]

theorem rowMask_zero {byte : Byte} {x0 y b : Nat} (x' : Fin 64) (y' : Fin 32) :
    rowMask byte x0 y b 0 x' y' = false := by
  rw [← Bool.not_eq_true, rowMask_eq_true_iff]
  omega

/-- R183: bits from column 64 on land nowhere. -/
theorem rowMask_clipped {byte : Byte} {x0 y b n : Nat} (h : ¬ x0 + b < 64) (x' : Fin 64) (y' : Fin 32) :
    rowMask byte x0 y b n x' y' = false := by
  rw [← Bool.not_eq_true, rowMask_eq_true_iff]
  omega

/-- The leftmost of the bits, and those to its right. -/
theorem rowMask_succ {byte : Byte} {x0 y b n : Nat} (x' : Fin 64) (y' : Fin 32) :
    rowMask byte x0 y b (n + 1) x' y' =
      (pixelMask (x0 + b) y (byte.getLsbD (7 - b)) x' y' || rowMask byte x0 y (b + 1) n x' y') := by
  rw [Bool.eq_iff_iff, Bool.or_eq_true, rowMask_eq_true_iff, rowMask_eq_true_iff, pixelMask_eq_true_iff]
  by_cases h : x'.val = x0 + b
  · simp [h]
  · have hright : x0 + b ≤ x'.val ↔ x0 + (b + 1) ≤ x'.val := by omega
    have hend : x0 + b + (n + 1) = x0 + (b + 1) + n := by omega
    simp [h, hright, hend]

theorem pixelMask_disjoint_rowMask {byte : Byte} {x0 y b n : Nat} {bit : Bool} (x' : Fin 64) (y' : Fin 32)
    (h : pixelMask (x0 + b) y bit x' y' = true) : rowMask byte x0 y (b + 1) n x' y' = false := by
  obtain ⟨⟨hx, -⟩, -⟩ := pixelMask_eq_true_iff.mp h
  rw [← Bool.not_eq_true, rowMask_eq_true_iff]
  omega

/-- R180, R183: the inner loop on the `n` bits from the `b`-th on. -/
theorem drawBits_draws (byte : Byte) (x0 : Nat) (y : Fin 32) (b n : Nat) (g : Grid) (col : Bool) :
    Draws (rowMask byte x0 y.val b n) g col (drawBits byte x0 y (List.range' b n) g col) := by
  induction n generalizing b g col with
  | zero => exact draws_of_no_bit rowMask_zero g col
  | succ n ih =>
    rw [List.range'_succ, drawBits]
    split
    next hx => exact (draws_setPix _ y _ g col).seq (ih (b + 1) _ _) pixelMask_disjoint_rowMask rowMask_succ
    next hx => exact draws_of_no_bit (rowMask_clipped hx) g col

/-! ### The outer loop: the rows -/

/-- Where the bits of a sprite land whose top left corner is at column `x0`, row `y0`: `spriteBit` with its anchor already
wrapped (`spriteMask_wrapped`). -/
def spriteMask (sprite : List Byte) (x0 y0 : Nat) : Mask := fun x y =>
  decide (x0 ≤ x.val) && decide (x.val < x0 + 8) && decide (y0 ≤ y.val) &&
    (sprite.getD (y.val - y0) 0#8).getLsbD (7 - (x.val - x0))

/-- R181: only the anchor wraps. -/
theorem spriteMask_wrapped (sprite : List Byte) (xa ya : Byte) :
    spriteMask sprite (xa.toNat % 64) (ya.toNat % 32) = spriteBit sprite xa ya := rfl

theorem spriteMask_eq_true_iff {sprite : List Byte} {x0 y0 : Nat} {x : Fin 64} {y : Fin 32} :
    spriteMask sprite x0 y0 x y = true ↔
      x0 ≤ x.val ∧ x.val < x0 + 8 ∧ y0 ≤ y.val ∧ (sprite.getD (y.val - y0) 0#8).getLsbD (7 - (x.val - x0)) = true := by
  simp only [spriteMask, Bool.and_eq_true, decide_eq_true_iff, and_assoc]

theorem spriteMask_nil (x0 y0 : Nat) (x : Fin 64) (y : Fin 32) : spriteMask [] x0 y0 x y = false := by
  rw [spriteMask, List.getD_nil, BitVec.getLsbD_zero, Bool.and_false]

/-- R182: rows from 32 on land nowhere. -/
theorem spriteMask_clipped {sprite : List Byte} {x0 y0 : Nat} (h : ¬ y0 < 32) (x : Fin 64) (y : Fin 32) :
    spriteMask sprite x0 y0 x y = false := by
  rw [← Bool.not_eq_true, spriteMask_eq_true_iff]
  omega

/-- The sprite's top row, and the rows below it. -/
theorem spriteMask_cons {byte : Byte} {rest : List Byte} {x0 y0 : Nat} (x : Fin 64) (y : Fin 32) :
    spriteMask (byte :: rest) x0 y0 x y = (rowMask byte x0 y0 0 8 x y || spriteMask rest x0 (y0 + 1) x y) := by
  rw [Bool.eq_iff_iff, Bool.or_eq_true, spriteMask_eq_true_iff, spriteMask_eq_true_iff, rowMask_eq_true_iff]
  obtain h | h | h := lt_trichotomy y.val y0
  · omega
  · simp [h]
  · obtain ⟨k, hk⟩ := Nat.exists_eq_add_of_lt h
    have hrow : y.val - y0 = k + 1 := by omega
    have hrest : y.val - (y0 + 1) = k := by omega
    have hbelow : y0 ≤ y.val ∧ y0 + 1 ≤ y.val ∧ y.val ≠ y0 := by omega
    simp [hrow, hrest, hbelow]

theorem rowMask_disjoint_spriteMask {byte : Byte} {rest : List Byte} {x0 y0 : Nat} (x : Fin 64) (y : Fin 32)
    (h : rowMask byte x0 y0 0 8 x y = true) : spriteMask rest x0 (y0 + 1) x y = false := by
  obtain ⟨hy, -⟩ := rowMask_eq_true_iff.mp h
  rw [← Bool.not_eq_true, spriteMask_eq_true_iff]
  omega

/-- R180, R182: the outer loop. -/
theorem drawRows_draws (sprite : List Byte) (x0 y0 : Nat) (g : Grid) (col : Bool) :
    Draws (spriteMask sprite x0 y0) g col (drawRows x0 y0 sprite g col) := by
  induction sprite generalizing y0 g col with
  | nil => exact draws_of_no_bit (spriteMask_nil x0 y0) g col
  | cons byte rest ih =>
    rw [drawRows]
    split
    next hy =>
      exact (drawBits_draws byte x0 ⟨y0, hy⟩ 0 8 g col).seq (ih (y0 + 1) _ _) rowMask_disjoint_spriteMask
        spriteMask_cons
    next hy => exact draws_of_no_bit (spriteMask_clipped hy) g col

/-! ### The draw -/

/-- R180-R184: the whole draw, from collision bit 0. -/
theorem drawSprite_draws (sprite : List Byte) (xa ya : Byte) (g : Grid) :
    Draws (spriteBit sprite xa ya) g false (drawSprite sprite xa ya g) :=
  spriteMask_wrapped sprite xa ya ▸ drawRows_draws sprite _ _ g false

/-- Settles O22: both loops draw each surviving bit of the sprite once, on a pixel of its own. -/
theorem drawIsClippedXor : Obligations.DrawIsClippedXor := by
  intro sprite xa ya g
  obtain ⟨hpix, hcol⟩ := drawSprite_draws sprite xa ya g
  exact ⟨hpix, by rw [hcol]; exact or_iff_right Bool.false_ne_true⟩

end Sys2Proof.Proofs
end

section
/-!
The moves between a register and a timer (R213, R215, R216): what the decoder reads from a word of the format `X` in the
category F, and one equation per meaning. These settle O27.
-/

namespace Sys2Proof.Proofs

open Sys2Proof.Machine Sys2Proof.Claims

/-! ### Words of the format `X` (R81) -/

theorem wordXNN_eq_packX (o : Nat) (x : Reg) (f : Nat) : wordXNN o x f = packX o x f := by
  rw [wordXNN, packX, Nat.mul_comm 0x1000, Nat.mul_comm 0x100]

theorem fields_wordX {o f : Nat} (ho : o < 16) (hf : f < 256) (x : Reg) :
    bits (wordXNN o x f) 15 12 = o ∧ bits (wordXNN o x f) 7 0 = f ∧ fieldX (wordXNN o x f) = x :=
  fields_X hf (wordXNN_eq_packX o x f ▸ toNat_packX ho hf x)

theorem decode_ldVxDt (x : Reg) : decode (wordXNN 0xF x 0x07) = .ok (.ldVxDt x) := by
  obtain ⟨hcat, hfn, hx⟩ := fields_wordX (o := 0xF) (f := 0x07) (by decide) (by decide) x
  simp [decode, decodeFamilyF, hcat, hfn, hx]

theorem decode_ldDtVx (x : Reg) : decode (wordXNN 0xF x 0x15) = .ok (.ldDtVx x) := by
  obtain ⟨hcat, hfn, hx⟩ := fields_wordX (o := 0xF) (f := 0x15) (by decide) (by decide) x
  simp [decode, decodeFamilyF, hcat, hfn, hx]

theorem decode_ldStVx (x : Reg) : decode (wordXNN 0xF x 0x18) = .ok (.ldStVx x) := by
  obtain ⟨hcat, hfn, hx⟩ := fields_wordX (o := 0xF) (f := 0x18) (by decide) (by decide) x
  simp [decode, decodeFamilyF, hcat, hfn, hx]

/-! ### The meanings -/

/-- R213. -/
theorem exec_ldVxDt (x : Reg) (s : State) : exec (.ldVxDt x) s = .next (s.writeV x s.DT) := rfl

/-- R215. -/
theorem exec_ldDtVx (x : Reg) (s : State) : exec (.ldDtVx x) s = .next (s.setDT (s.readV x)) := rfl

/-- R216. -/
theorem exec_ldStVx (x : Reg) (s : State) : exec (.ldStVx x) s = .next (s.setST (s.readV x)) := rfl

/-- Settles O27: the words decode by their category digit and function byte, and each meaning is one write, of `V[X]`, of DT
or of ST. -/
theorem timerRegisterMoves : Obligations.TimerRegisterMoves := fun x s =>
  ⟨decode_ldVxDt x, decode_ldDtVx x, decode_ldStVx x, exec_ldVxDt x s, exec_ldDtVx x s, exec_ldStVx x s⟩

end Sys2Proof.Proofs
end

section
/-!
The decoder and the encoder (R80-R89, R98) are inverse to each other: a word is put together again from the fields the
decoder reads from it, and the decoder reads back the fields an encoding is packed from. The words it rejects are the invalid
ones. These settle O47, O48 and O49, and `decode_of_eq_encode` serves every statement that names the word of an instruction.
-/

namespace Sys2Proof.Proofs

open Sys2Proof.Machine Sys2Proof.Claims

/-! ### A word is packed from its own fields (R81) -/

theorem packNNN_fields {op : Word} {o : Nat} (ho : bits op 15 12 = o) : packNNN o (fieldNNN op) = op := by
  have hop := op.isLt
  rw [bits_category] at ho
  apply BitVec.eq_of_toNat_eq
  rw [toNat_packNNN (by omega), toNat_fieldNNN]
  omega

theorem packXNN_fields {op : Word} {o : Nat} (ho : bits op 15 12 = o) : packXNN o (fieldX op) (fieldNN op) = op := by
  have hop := op.isLt
  rw [bits_category] at ho
  apply BitVec.eq_of_toNat_eq
  rw [toNat_packXNN (by omega), val_fieldX, toNat_fieldNN]
  omega

theorem packXYN_fields {op : Word} {o n : Nat} (ho : bits op 15 12 = o) (hn : bits op 3 0 = n) :
    packXYN o (fieldX op) (fieldY op) n = op := by
  have hop := op.isLt
  rw [bits_category] at ho
  rw [bits_lowNibble] at hn
  apply BitVec.eq_of_toNat_eq
  rw [toNat_packXYN (by omega) (by omega), val_fieldX, val_fieldY]
  omega

theorem packX_fields {op : Word} {o f : Nat} (ho : bits op 15 12 = o) (hf : bits op 7 0 = f) :
    packX o (fieldX op) f = op := by
  have hop := op.isLt
  rw [bits_category] at ho
  rw [bits_lowByte] at hf
  apply BitVec.eq_of_toNat_eq
  rw [toNat_packX (by omega) (by omega), val_fieldX]
  omega

/-! ### What the decoder answers is well formed and has the word as its encoding -/

/-- `i` stands for the word `op`: the right-hand side of R98's agreement. -/
def HasWord (i : Instr) (op : Word) : Prop := i.wellFormed = true ∧ encode i = op

theorem hasWord_of_decodeFamily0 {op : Word} {i : Instr} (ho : bits op 15 12 = 0) (h : decodeFamily0 op = .ok i) :
    HasWord i op := by
  have hword : packNNN 0 (fieldNNN op) = op := packNNN_fields ho
  rw [decodeFamily0] at h
  split at h
  next hcls => cases h; exact ⟨rfl, hcls.symm⟩
  next hcls =>
    split at h
    next hret => cases h; exact ⟨rfl, hret.symm⟩
    next hret =>
      cases h
      refine ⟨?_, hword⟩
      -- an address of a fixed word would make the word that fixed word
      have h0 : fieldNNN op ≠ 0x0E0#12 := fun he => hcls (by rw [← hword, he]; rfl)
      have h1 : fieldNNN op ≠ 0x0EE#12 := fun he => hret (by rw [← hword, he]; rfl)
      simp [Instr.wellFormed, h0, h1]

theorem hasWord_of_decodeFamily8 {op : Word} {i : Instr} (ho : bits op 15 12 = 8) (h : decodeFamily8 op = .ok i) :
    HasWord i op := by
  rw [decodeFamily8] at h
  split at h <;> cases h <;> exact ⟨rfl, packXYN_fields ho ‹_›⟩

theorem hasWord_of_decodeFamilyE {op : Word} {i : Instr} (ho : bits op 15 12 = 0xE) (h : decodeFamilyE op = .ok i) :
    HasWord i op := by
  simp only [decodeFamilyE] at h
  repeat' split at h
  all_goals cases h
  all_goals exact ⟨rfl, packX_fields ho ‹_›⟩

theorem hasWord_of_decodeFamilyF {op : Word} {i : Instr} (ho : bits op 15 12 = 0xF) (h : decodeFamilyF op = .ok i) :
    HasWord i op := by
  simp only [decodeFamilyF] at h
  repeat' split at h
  all_goals cases h
  all_goals exact ⟨rfl, packX_fields ho ‹_›⟩

theorem hasWord_of_decode {op : Word} {i : Instr} (h : decode op = .ok i) : HasWord i op := by
  rw [decode] at h
  split at h
  next ho => exact hasWord_of_decodeFamily0 ho h
  next ho => cases h; exact ⟨rfl, packNNN_fields ho⟩
  next ho => cases h; exact ⟨rfl, packNNN_fields ho⟩
  next ho => cases h; exact ⟨rfl, packXNN_fields ho⟩
  next ho => cases h; exact ⟨rfl, packXNN_fields ho⟩
  next ho =>
    split at h <;> cases h
    exact ⟨rfl, packXYN_fields ho ‹_›⟩
  next ho => cases h; exact ⟨rfl, packXNN_fields ho⟩
  next ho => cases h; exact ⟨rfl, packXNN_fields ho⟩
  next ho => exact hasWord_of_decodeFamily8 ho h
  next ho =>
    split at h <;> cases h
    exact ⟨rfl, packXYN_fields ho ‹_›⟩
  next ho => cases h; exact ⟨rfl, packNNN_fields ho⟩
  next ho => cases h; exact ⟨rfl, packNNN_fields ho⟩
  next ho => cases h; exact ⟨rfl, packXNN_fields ho⟩
  next ho => cases h; exact ⟨rfl, packXYN_fields ho (by rw [val_fieldN, bits_lowNibble])⟩
  next ho => exact hasWord_of_decodeFamilyE ho h
  next ho => exact hasWord_of_decodeFamilyF ho h
  next => cases h

/-! ### The decoder reads an encoding back -/

theorem fields_packNNN {o : Nat} (ho : o < 16) (nnn : Addr12) :
    bits (packNNN o nnn) 15 12 = o ∧ fieldNNN (packNNN o nnn) = nnn :=
  fields_NNN (toNat_packNNN ho nnn)

theorem fields_packXNN {o : Nat} (ho : o < 16) (x : Reg) (nn : Byte) :
    bits (packXNN o x nn) 15 12 = o ∧ fieldX (packXNN o x nn) = x ∧ fieldNN (packXNN o x nn) = nn :=
  fields_XNN (toNat_packXNN ho x nn)

theorem fields_packXYN {o n : Nat} (ho : o < 16) (hn : n < 16) (x y : Reg) :
    bits (packXYN o x y n) 15 12 = o ∧ bits (packXYN o x y n) 3 0 = n ∧ fieldX (packXYN o x y n) = x ∧
      fieldY (packXYN o x y n) = y ∧ (fieldN (packXYN o x y n)).val = n :=
  fields_XYN hn (toNat_packXYN ho hn x y)

theorem fields_packX {o f : Nat} (ho : o < 16) (hf : f < 256) (x : Reg) :
    bits (packX o x f) 15 12 = o ∧ bits (packX o x f) 7 0 = f ∧ fieldX (packX o x f) = x :=
  fields_X hf (toNat_packX ho hf x)

/-- R84, R93: SYS, whose word must not be one of the two fixed words. -/
theorem decode_encode_sys {nnn : Addr12} (h : (Instr.sys nnn).wellFormed = true) :
    decode (encode (.sys nnn)) = .ok (.sys nnn) := by
  obtain ⟨hcat, hnnn⟩ := fields_packNNN (o := 0) (by decide) nnn
  have hne : nnn ≠ 0x0E0#12 ∧ nnn ≠ 0x0EE#12 := by simpa [Instr.wellFormed] using h
  have hcls : packNNN 0 nnn ≠ 0x00E0#16 := fun he => hne.1 (by rw [← hnnn, he]; rfl)
  have hret : packNNN 0 nnn ≠ 0x00EE#16 := fun he => hne.2 (by rw [← hnnn, he]; rfl)
  simp [decode, decodeFamily0, encode, hcat, hnnn, hcls, hret]

/-- R80, R98: by the format of the instruction's row. -/
theorem decode_encode {i : Instr} (h : i.wellFormed = true) : decode (encode i) = .ok i := by
  cases i
  case sys nnn => exact decode_encode_sys h
  case cls | ret => rfl
  case jp | call | ldI | jpV0 => simp [decode, encode, fields_packNNN]
  case seImm | sneImm | ldImm | addImm | rnd => simp [decode, encode, fields_packXNN]
  case seReg | sneReg => simp [decode, encode, fields_packXYN]
  case ldReg | orReg | andReg | xorReg | addReg | sub | shr | subn | shl =>
    simp [decode, decodeFamily8, encode, fields_packXYN]
  case drw x y n =>
    obtain ⟨hcat, -, hx, hy, hn⟩ := fields_packXYN (o := 0xD) (by decide) n.isLt x y
    simp only [decode, encode, hcat, hx, hy, Fin.ext hn]
  case skp | sknp => simp [decode, decodeFamilyE, encode, fields_packX]
  case ldVxDt | ldVxK | ldDtVx | ldStVx | addIVx | ldFVx | ldBVx | ldMemVx | ldVxMem =>
    simp [decode, decodeFamilyF, encode, fields_packX]

/-- The form in which the statements about one instruction use it. -/
theorem decode_of_eq_encode {op : Word} {i : Instr} (he : op = encode i) (h : i.wellFormed = true := by rfl) :
    decode op = .ok i := he ▸ decode_encode h

/-- Settles O47: whatever decodes is put together again from its fields, and every encoding is read back. -/
theorem decodeEncodeAgree : Obligations.DecodeEncodeAgree := by
  intro op i
  constructor
  · exact hasWord_of_decode
  · rintro ⟨hwf, rfl⟩
    exact decode_encode hwf

/-! ### The rejected words (R85-R89) -/

/-- R88: the families 5 and 9, which have one form. -/
theorem singleForm_eq_error_iff (op : Word) (i : Instr) (e : Reject) :
    (if bits op 3 0 = 0 then .ok i else .error .invalidOpcode : Except Reject Instr) = .error e ↔
      e = .invalidOpcode ∧ op.toNat % 16 ≠ 0 := by
  rw [← bits_lowNibble]
  split_ifs with h <;> simp [eq_comm (a := e), h]

theorem decodeFamily8_eq_error_iff (op : Word) (e : Reject) :
    decodeFamily8 op = .error e ↔ e = .invalidOpcode ∧ op.toNat % 16 ∈ [0x8, 0x9, 0xA, 0xB, 0xC, 0xD, 0xF] := by
  have hlt : bits op 3 0 < 16 := by rw [bits_lowNibble]; omega
  rw [← bits_lowNibble, decodeFamily8]
  generalize bits op 3 0 = n at hlt
  interval_cases n <;> simp [eq_comm (a := e)]

theorem decodeFamilyE_eq_error_iff (op : Word) (e : Reject) :
    decodeFamilyE op = .error e ↔ e = .invalidOpcode ∧ op.toNat % 256 ∉ [0x9E, 0xA1] := by
  rw [← bits_lowByte, decodeFamilyE]
  split_ifs <;> simp [eq_comm (a := e), *]

theorem decodeFamilyF_eq_error_iff (op : Word) (e : Reject) :
    decodeFamilyF op = .error e ↔
      e = .invalidOpcode ∧ op.toNat % 256 ∉ [0x07, 0x0A, 0x15, 0x18, 0x1E, 0x29, 0x33, 0x55, 0x65] := by
  rw [← bits_lowByte, decodeFamilyF]
  split_ifs <;> simp [eq_comm (a := e), *]

theorem decodeFamily0_ne_error (op : Word) (e : Reject) : decodeFamily0 op ≠ .error e := by
  rw [decodeFamily0]
  split_ifs <;> simp

/-- Settles O48: by the category digit. Only the families 5, 8, 9, E and F reject, and there is no seventeenth category. -/
theorem rejectedWordsAreTheInvalidOnes : Obligations.RejectedWordsAreTheInvalidOnes := by
  intro op e
  have hlt : bits op 15 12 < 16 := by have := op.isLt; rw [bits_category]; omega
  rw [invalidWord, ← bits_category, decode]
  generalize bits op 15 12 = c at hlt
  interval_cases c <;>
    simp [decodeFamily0_ne_error, singleForm_eq_error_iff, decodeFamily8_eq_error_iff, decodeFamilyE_eq_error_iff,
      decodeFamilyF_eq_error_iff]

/-- Settles O49: each word is the encoding of its instruction, but for 5001, which is an invalid one. -/
theorem sampleWordsDecode : Obligations.SampleWordsDecode := by
  unfold Obligations.SampleWordsDecode
  decide

end Sys2Proof.Proofs
end

section
/-!
Memory: what a read gives inside and outside a written range, and that the canonical form is unique. These settle O50 and
O51; the stores of FX33 and FX55 and the host's ROM load use the first two.
-/

namespace Sys2Proof.Proofs

open Sys2Proof.Machine Sys2Proof.Claims

@[simp] theorem writeBytes_nil (m : Memory) (a : Nat) : m.writeBytes a [] = m := rfl

/-- R13: byte `k` of the list stands at `a + k`. -/
theorem read_writeBytes_inside {m : Memory} {a : Nat} {l : List Byte} (hwf : m.wf = true) (hr : a + l.length ≤ 4096)
    {k : Nat} (hk : k < l.length) : (m.writeBytes a l).read (a + k) = l[k] := by
  rw [Memory.read_writeBytes l hwf hr, dif_pos (by omega)]
  simp only [Nat.add_sub_cancel_left]

/-- R61: nothing else is written. -/
theorem read_writeBytes_outside {m : Memory} {a b : Nat} {l : List Byte} (hwf : m.wf = true)
    (hr : a + l.length ≤ 4096) (hb : b < a ∨ a + l.length ≤ b) : (m.writeBytes a l).read b = m.read b := by
  rw [Memory.read_writeBytes l hwf hr, dif_neg (by omega)]

/-- Settles O50: byte for byte. -/
theorem memReadAfterMemWrite : Obligations.MemReadAfterMemWrite := by
  intro m a bytes hwf hr
  refine ⟨List.ext_getElem (Memory.length_readBytes _ _ _) ?_, fun b => read_writeBytes_outside hwf hr,
    Memory.writeBytes_wf bytes hwf hr⟩
  intro k _ hk
  rw [Memory.getElem_readBytes, read_writeBytes_inside hwf hr hk]

/-! ### The canonical form is unique -/

/-- An address listed in one canonical memory and below all those of another reads differently in the two: the entry is
not what an unlisted address reads as. -/
theorem read_head_ne {lo lo' a : Nat} {v : Byte} {rest m : Memory} (h : Memory.wfFrom lo ((a, v) :: rest) = true)
    (h' : Memory.wfFrom lo' m = true) (ha : a < lo') : Memory.read ((a, v) :: rest) a ≠ m.read a := by
  obtain ⟨-, -, hv, -⟩ := Memory.wfFrom_cons.mp h
  rwa [Memory.read_of_lt h' ha, Memory.read, if_pos rfl]

theorem eq_of_read_eq {lo : Nat} {m m' : Memory} (h : Memory.wfFrom lo m = true) (h' : Memory.wfFrom lo m' = true)
    (hread : ∀ a < 4096, m.read a = m'.read a) : m = m' := by
  induction m generalizing lo m' with
  | nil =>
    cases m' with
    | nil => rfl
    | cons c' rest' =>
      obtain ⟨-, hlt, -, -⟩ := Memory.wfFrom_cons.mp h'
      exact absurd (hread _ hlt).symm (read_head_ne h' rfl (Nat.lt_succ_self _))
  | cons c rest ih =>
    obtain ⟨a, v⟩ := c
    obtain ⟨hlo, hlt, hv, hrest⟩ := Memory.wfFrom_cons.mp h
    cases m' with
    | nil => exact absurd (hread a hlt) (read_head_ne h (lo' := a + 1) rfl (Nat.lt_succ_self a))
    | cons c' rest' =>
      obtain ⟨b, w⟩ := c'
      obtain ⟨hlo', hlt', hv', hrest'⟩ := Memory.wfFrom_cons.mp h'
      obtain hab | rfl | hab := lt_trichotomy a b
      · have hfrom : Memory.wfFrom b ((b, w) :: rest') = true := Memory.wfFrom_cons.mpr ⟨le_rfl, hlt', hv', hrest'⟩
        exact absurd (hread a hlt) (read_head_ne h hfrom hab)
      · have hhead : v = w := by simpa [Memory.read] using hread a hlt
        have htail : rest = rest' := ih hrest hrest' fun d hd => by
          by_cases hda : a = d
          · rw [← hda, Memory.read_of_lt hrest (Nat.lt_succ_self a), Memory.read_of_lt hrest' (Nat.lt_succ_self a)]
          · simpa [Memory.read, hda] using hread d hd
        rw [hhead, htail]
      · have hfrom : Memory.wfFrom a ((a, v) :: rest) = true := Memory.wfFrom_cons.mpr ⟨le_rfl, hlt, hv, hrest⟩
        exact absurd (hread b hlt').symm (read_head_ne h' hfrom hab)

/-- Settles O51: the first entries agree, and then the rest. -/
theorem equalMemoriesAreEqualData : Obligations.EqualMemoriesAreEqualData := fun _ _ => eq_of_read_eq

end Sys2Proof.Proofs
end

section
/-!
Everything an instruction's meaning can do, once (`exec_cases`): it raises a fault of its own, and then only latches the
record, or it completes, and then `Completes` says of every piece of state what it may have become (R31-R43, R61). These
settle O43 to O46 and O41, and the facts about the cycle that follow use them.
-/

namespace Sys2Proof.Proofs

open Sys2Proof.Machine Sys2Proof.Claims

/-! ### The two ways an instruction can end -/

/-- R300: the start of the failing range, which only InvalidRamAddress records. -/
def faultAddr (k : FaultKind) (s : State) : Option Word := if k = .invalidRamAddress then some s.I else none

/-- R301, R305: `i` raises a fault of its own, and only the latch changes. -/
def Raises (i : Instr) (s t : State) : Prop :=
  ∃ k, canRaise i k = true ∧ t = s.raiseIn k (encode i) (faultAddr k s)

/-- `i` raises nothing: what each piece of state has become. -/
structure Completes (i : Instr) (s t : State) : Prop where
  V : ∀ z : Reg, writesReg i z = false → t.V[z.val] = s.V[z.val]
  pc : t.pc = pcAfter i s
  I : writesI i = false → t.I = s.I
  DT : (∀ x, i ≠ .ldDtVx x) → t.DT = s.DT
  ST : (∀ x, i ≠ .ldStVx x) → t.ST = s.ST
  stack : usesStack i = false → t.stack = s.stack ∧ t.sp = s.sp
  /-- R104: an entry that is not kept is the pushed `pc`. -/
  entry : ∀ j : Fin 16, t.stack[j.val] = s.stack[j.val] ∨ t.stack[j.val] = s.pc
  display : writesDisplay i = false → t.pix = s.pix ∧ t.redraw = s.redraw
  romLoaded : t.romLoaded = s.romLoaded
  fault : t.fault = s.fault
  /-- R61, R63: the bytes stored, if any, start at `I` and are in range. -/
  mem : ∃ l : List Byte, l.length = storeLength i ∧ (l = [] ∨ s.I.toNat + l.length ≤ 4096) ∧
    t.mem = s.mem.writeBytes s.I.toNat l

/-! ### The values that occur in them -/

theorem getElem_set_of_ne {V : Vector Byte 16} {x z : Reg} {b : Byte} (h : z ≠ x) :
    (V.set x.val b)[z.val] = V[z.val] :=
  Vector.getElem_set_ne _ _ fun he => h (Fin.ext he.symm)

theorem getElem_setVF_of_ne {V : Vector Byte 16} {z : Reg} {b : Byte} (h : z ≠ 15) : (V.set 15 b)[z.val] = V[z.val] :=
  getElem_set_of_ne (x := 15) h

/-- R109: the sum is exact, since it is at most 0x10FE. -/
theorem jumpV0Target_eq_ofNat (v : Byte) (nnn : Addr12) :
    jumpV0Target v nnn = BitVec.ofNat 16 (v.toNat + nnn.toNat) := by
  rw [jumpV0Target, zextByte, zextAddr_eq_ofNat, BitVec.ofNat_add, ← BitVec.ofNat_toNat]

/-- R210: a register in range holds a key number as it stands. -/
theorem ofNat_toNat_key {v : Byte} (h : v.toNat < 16) : Fin.ofNat 16 v.toNat = ⟨v.toNat, h⟩ :=
  Fin.ext (Nat.mod_eq_of_lt h)

/-- R212: a skip on the negation. -/
theorem skipIf_not_eq (s : State) (c : Bool) : s.skipIf (!c) = { s with pc := if c then s.pc else s.pc + 2 } := by
  cases c <;> rfl

/-! ### Every meaning, by its constructor -/

theorem exec_total (i : Instr) (s : State) : ∃ t, exec i s = .next t := by
  cases i <;> exact ⟨_, rfl⟩

theorem exec_cases {i : Instr} {s t : State} (h : exec i s = .next t) : Raises i s t ∨ Completes i s t := by
  cases i
  case sys => cases h; exact .inl ⟨.invalidOpcode, rfl, rfl⟩
  case ret =>
    obtain ⟨-, rfl⟩ | ⟨-, rfl⟩ := exec_ret_cases h
    · right; constructor <;> simp [usesStack, pcAfter, storeLength]
    · exact .inl ⟨.stackUnderflow, rfl, rfl⟩
  case call =>
    obtain ⟨hlt, rfl⟩ | ⟨-, rfl⟩ := exec_call_cases h
    · right; constructor <;> simp [usesStack, pcAfter, storeLength, zextAddr, Vector.getElem_set]
      intro j
      by_cases hj : s.sp.val = j.val <;> simp [hj]
    · exact .inl ⟨.stackOverflow, rfl, rfl⟩
  case drw =>
    obtain ⟨-, rfl⟩ | ⟨-, rfl⟩ := exec_drw_cases h
    · right; constructor <;> simp +contextual [writesReg, writesDisplay, pcAfter, storeLength, getElem_setVF_of_ne]
    · exact .inl ⟨.invalidRamAddress, rfl, rfl⟩
  case ldBVx x =>
    obtain ⟨hr, rfl⟩ | ⟨-, rfl⟩ := exec_ldBVx_cases h
    · right; constructor <;> simp [pcAfter]
      exact ⟨decimalDigits (s.readV x), length_decimalDigits _, .inr hr, rfl⟩
    · exact .inl ⟨.invalidRamAddress, rfl, rfl⟩
  case ldMemVx x =>
    obtain ⟨hr, rfl⟩ | ⟨-, rfl⟩ := exec_ldMemVx_cases h
    · right; constructor <;> simp [pcAfter]
      exact ⟨s.firstRegs x, length_firstRegs s x, .inr (by rwa [length_firstRegs]), rfl⟩
    · exact .inl ⟨.invalidRamAddress, rfl, rfl⟩
  case ldVxMem x =>
    obtain ⟨-, rfl⟩ | ⟨-, rfl⟩ := exec_ldVxMem_cases h
    · right; constructor <;> simp [writesReg, pcAfter, storeLength, getElem_loadRegs]
      omega
    · exact .inl ⟨.invalidRamAddress, rfl, rfl⟩
  case skp x =>
    obtain ⟨hk, rfl⟩ | ⟨-, rfl⟩ := exec_skp_cases h
    · right; constructor <;> simp [pcAfter, storeLength, ofNat_toNat_key hk, -Fin.ofNat_eq_cast]
    · exact .inl ⟨.keyIndexOutOfRange, rfl, rfl⟩
  case sknp x =>
    obtain ⟨hk, rfl⟩ | ⟨-, rfl⟩ := exec_sknp_cases h
    · right; constructor <;> simp [pcAfter, storeLength, ofNat_toNat_key hk, skipIf_not_eq, -Fin.ofNat_eq_cast]
    · exact .inl ⟨.keyIndexOutOfRange, rfl, rfl⟩
  case ldVxK x =>
    obtain ⟨hn, rfl⟩ | ⟨k, hk, rfl⟩ := exec_ldVxK_cases h <;>
    · right; constructor <;> simp +contextual [writesReg, pcAfter, storeLength, getElem_set_of_ne, *]
  case seImm | sneImm | seReg | sneReg => cases h; right; constructor <;> simp [pcAfter, storeLength]
  case jp | jpV0 =>
    cases h; right
    constructor <;> simp [pcAfter, storeLength, zextAddr, jumpV0Target_eq_ofNat]
  case addReg | sub | shr | subn | shl =>
    cases h; right
    constructor <;> simp +contextual [writesReg, pcAfter, storeLength, getElem_set_of_ne, getElem_setVF_of_ne,
      State.writeResultFlag, shrWith, shlWith]
  case ldImm | addImm | ldReg | orReg | andReg | xorReg | rnd | ldVxDt =>
    cases h; right
    constructor <;> simp +contextual [writesReg, pcAfter, storeLength, getElem_set_of_ne, rndWith]
  case cls | ldI | addIVx | ldFVx | ldDtVx | ldStVx =>
    cases h; right
    constructor <;> simp [writesI, writesDisplay, pcAfter, storeLength]

/-! ### The frames over every instruction -/

theorem Completes.read_mem {i : Instr} {s t : State} (h : Completes i s t) (hwf : s.mem.wf = true) {a : Nat}
    (ha : a < s.I.toNat ∨ s.I.toNat + storeLength i ≤ a) : t.mem.read a = s.mem.read a := by
  obtain ⟨l, hlen, hrange, hmem⟩ := h.mem
  rw [hmem]
  obtain rfl | hrange := hrange
  · rfl
  · exact read_writeBytes_outside hwf hrange (hlen ▸ ha)

theorem Completes.mem_wf {i : Instr} {s t : State} (h : Completes i s t) (hwf : s.mem.wf = true) :
    t.mem.wf = true := by
  obtain ⟨l, -, hrange, hmem⟩ := h.mem
  rw [hmem]
  obtain rfl | hrange := hrange
  · exact hwf
  · exact Memory.writeBytes_wf l hwf hrange

/-- Settles O43: a raise writes no register, and a completed instruction only those of R32's table. -/
theorem registerFrame : Obligations.RegisterFrame := by
  intro i s t z h hz
  obtain ⟨k, -, rfl⟩ | hc := exec_cases h
  · rfl
  · exact hc.V z hz

/-- Settles O44: a raise changes the latch alone, and only where `i` can raise. -/
theorem specialStateFrame : Obligations.SpecialStateFrame := by
  intro i s t h
  obtain ⟨k, hk, rfl⟩ | hc := exec_cases h
  · have hlatch (hno : ∀ k, canRaise i k = false) : False := by simp [hno k] at hk
    exact ⟨fun _ => rfl, fun _ => rfl, fun _ => rfl, fun _ => ⟨rfl, rfl⟩, fun _ => ⟨rfl, rfl⟩, rfl,
      fun hno => (hlatch hno).elim⟩
  · exact ⟨hc.I, hc.DT, hc.ST, hc.stack, hc.display, hc.romLoaded, fun _ => hc.fault⟩

/-- Settles O45: the bytes stored lie from `I` up. -/
theorem memoryFrame : Obligations.MemoryFrame := by
  intro i s t hwf h a ha
  obtain ⟨k, -, rfl⟩ | hc := exec_cases h
  · rfl
  · exact hc.read_mem hwf ha

/-- Settles O46: with no record latched the instruction has not raised. -/
theorem pcAfterEachInstruction : Obligations.PcAfterEachInstruction := by
  intro i s t h hnone
  obtain ⟨k, -, rfl⟩ | hc := exec_cases h
  · cases hnone
  · exact hc.pc

/-- Settles O41: a completed instruction leaves the latch empty, so the record is that of a raise. -/
theorem faultsByInstruction : Obligations.FaultsByInstruction := by
  intro i s t r hnone h hr
  obtain ⟨k, hk, rfl⟩ | hc := exec_cases h
  · cases hr
    exact ⟨hk, rfl, rfl, rfl⟩
  · rw [hc.fault, hnone] at hr
    cases hr

end Sys2Proof.Proofs
end

section
/-!
The cycle (R90-R96, R304-R307): when it has a step, what a raise in it leaves, and what it executes. These settle O9, O28,
O35, O36, O38 to O40, O42 and O57.
-/

namespace Sys2Proof.Proofs

open Sys2Proof.Machine Sys2Proof.Claims

/-! ### Whether a cycle has a step -/

/-- R307. -/
theorem step_of_fault {s : State} {r : FaultRecord} (h : s.fault = some r) : step s = .fault (.halted r) := by
  unfold step
  rw [h]

theorem step_total {s : State} (h : s.fault = none) : ∃ t, step s = .next t := by
  cases hp : s.prefetchFault with
  | some r => exact ⟨_, step_of_prefetchFault h hp⟩
  | none =>
    cases hd : decode s.fetchWord with
    | ok i => rw [step_of_decode h hp hd]; exact exec_total i _
    | error e => exact ⟨_, step_of_reject h hp hd⟩

/-- Settles O39: no meaning is refused. -/
theorem stepStopsExactlyWhenLatched : Obligations.StepStopsExactlyWhenLatched :=
  fun _ => ⟨fun _ => step_of_fault, step_total⟩

/-- Settles O57. -/
theorem cycleReportsFault : Obligations.CycleReportsFault := by
  intro s
  constructor
  · intro r hr
    rw [State.perform, step_of_fault hr]
  · intro hnone
    obtain ⟨t, ht⟩ := step_total hnone
    refine ⟨t, ht, ?_⟩
    rw [State.perform, ht]
    rfl

/-! ### The faults of a cycle -/

/-- Settles O35: the check of `rom_loaded` is the first. -/
theorem cycleWithoutRomRaises : Obligations.CycleWithoutRomRaises := by
  intro s hnone hrom
  exact step_of_prefetchFault hnone (by rw [State.prefetchFault, if_pos hrom])

/-- Settles O36: with a ROM loaded the check of the fetch range decides. -/
theorem cycleFetchOutOfRangeRaises : Obligations.CycleFetchOutOfRangeRaises := by
  intro s hnone hrom hpc
  have hrange : rangeOk s.pc.toNat 2 ≠ true := by rw [Ne, rangeOk_iff]; omega
  exact step_of_prefetchFault hnone (by rw [State.prefetchFault, if_neg (by simp [hrom]), if_neg hrange])

/-- Settles O38: an invalid word is rejected as InvalidOpcode (O48). -/
theorem cycleInvalidWordRaises : Obligations.CycleInvalidWordRaises := by
  intro s op hs hop hinvalid
  have hfetch : s.fetchWord = op := fetchWord_eq_of_toNat_eq hop
  have hreject : decode op = .error .invalidOpcode := (rejectedWordsAreTheInvalidOnes op _).mpr ⟨rfl, hinvalid⟩
  rw [step_of_reject hs.1 (prefetchFault_eq_none_of_fetches hs) (hfetch ▸ hreject), hfetch]
  rfl

/-- Settles O40: the record is latched before the fetch and then has no opcode, or by the instruction or the decoder and
then has one. -/
theorem raisingCycleChangesNothingElse : Obligations.RaisingCycleChangesNothingElse := by
  intro s t r h hr
  obtain ⟨hnone, ⟨q, hq, rfl⟩ | ⟨-, i, -, hexec⟩ | ⟨-, e, -, rfl⟩⟩ := step_cases h
  · cases hr
    obtain ⟨-, rfl⟩ | ⟨-, -, rfl⟩ := State.prefetchFault_cases hq <;> exact ⟨rfl, rfl⟩
  · obtain ⟨k, -, rfl⟩ | hc := exec_cases hexec
    · cases hr
      exact ⟨rfl, BitVec.add_sub_cancel s.pc 2⟩
    · rw [hc.fault, hnone] at hr
      cases hr
  · cases hr
    exact ⟨rfl, rfl⟩

/-! ### What a cycle executes -/

/-- Settles O28: before the fetch and where a word is rejected the timers stay; of the instructions only FX15 and FX18 write
them (O44), with `V[X]`. -/
theorem cycleChangesTimersOnlyByLoads : Obligations.CycleChangesTimersOnlyByLoads := by
  intro s t h
  obtain ⟨-, ⟨q, -, rfl⟩ | ⟨-, i, hd, hexec⟩ | ⟨-, e, -, rfl⟩⟩ := step_cases h
  · exact ⟨fun hne => absurd rfl hne, fun hne => absurd rfl hne⟩
  · obtain ⟨-, hDT, hST, -⟩ := specialStateFrame i _ t hexec
    constructor
    · intro hne
      obtain ⟨x, rfl⟩ : ∃ x, i = .ldDtVx x := not_forall_not.mp (mt hDT hne)
      cases hexec
      exact ⟨x, hd, rfl⟩
    · intro hne
      obtain ⟨x, rfl⟩ : ∃ x, i = .ldStVx x := not_forall_not.mp (mt hST hne)
      cases hexec
      exact ⟨x, hd, rfl⟩
  · exact ⟨fun hne => absurd rfl hne, fun hne => absurd rfl hne⟩

/-- Settles O9: the fetched word is the one of JP to `pc`, which sets `pc` to what it was. -/
theorem jumpToSelfIdles : Obligations.JumpToSelfIdles := by
  intro s hs hword
  have ⟨hnone, _, hpc⟩ := hs
  have haddr : (BitVec.ofNat 12 s.pc.toNat).toNat = s.pc.toNat := by rw [BitVec.toNat_ofNat]; omega
  have hjp : s.fetchWord = wordNNN 1 (BitVec.ofNat 12 s.pc.toNat) := by
    apply BitVec.eq_of_toNat_eq
    rw [hword, wordNNN_eq_packNNN, toNat_packNNN (by decide), haddr]
  rw [step_of_decode hnone (prefetchFault_eq_none_of_fetches hs) (hjp ▸ decode_jp _), exec_jp, zextAddr_eq_ofNat, haddr,
    BitVec.ofNat_toNat, BitVec.setWidth_eq]

/-! ### The host's load of one word -/

theorem decode_tableWord {w : Nat} {i : Instr} (h : decodeTableWord 16 w = some i) :
    decode (tableWord 16 w) = .ok i := by
  rw [decodeTableWord, wordBytes, decodeBytes, wordOf_wordBytes] at h
  cases hd : decode (tableWord 16 w) <;> simp_all

/-- R91: `withFetchWord` leaves a `pc` that a fetch can read from. -/
theorem withFetchWord_pc_le (s : State) (n w : Nat) : (s.withFetchWord n w).pc.toNat ≤ 4094 := by
  simp only [State.withFetchWord]
  split
  next hr => rw [rangeOk_iff] at hr; omega
  next => decide

/-- R64: what is fetched is the word that was stored. -/
theorem withFetchWord_fetchWord {s : State} (hwf : s.mem.wf = true) (n w : Nat) :
    (s.withFetchWord n w).fetchWord = tableWord n w := by
  have hr : (s.withFetchWord n w).pc.toNat + (wordBytes (tableWord n w)).length ≤ 4096 := by
    have := withFetchWord_pc_le s n w
    simp only [wordBytes, List.length_cons, List.length_nil]
    omega
  have hbyte (k : Nat) (hk : k < (wordBytes (tableWord n w)).length) :
      (s.withFetchWord n w).mem.read ((s.withFetchWord n w).pc.toNat + k) = (wordBytes (tableWord n w))[k] :=
    read_writeBytes_inside hwf hr hk
  have h0 := hbyte 0 Nat.two_pos
  have h1 := hbyte 1 Nat.one_lt_two
  rw [Nat.add_zero] at h0
  rw [State.fetchWord, h0, h1]
  exact wordOf_wordBytes _

/-- Settles O42: a state with the word placed gets as far as its fetch, fetches that word, and decodes it. -/
theorem fetchedWordIsExecuted : Obligations.FetchedWordIsExecuted := by
  intro s w i hwf hi
  have hfetches : fetches (s.withFetchWord 16 w) := ⟨rfl, rfl, withFetchWord_pc_le s 16 w⟩
  exact step_of_decode hfetches.1 (prefetchFault_eq_none_of_fetches hfetches)
    ((withFetchWord_fetchWord hwf 16 w).symm ▸ decode_tableWord hi)

end Sys2Proof.Proofs
end

section
/-!
The invariant (R36, R60, R300, R303): it holds at construction, and a cycle and every other transaction keep it. These settle
O58, O59 and O60.
-/

namespace Sys2Proof.Proofs

open Sys2Proof.Machine Sys2Proof.Claims

/-! ### The bound on `pc` (R36) -/

/-- `pc` during the execution of an instruction, which is its fetch address plus 2 (R33). -/
def AfterFetch (pc : Word) : Prop := 2 ≤ pc.toNat ∧ pc.toNat ≤ 4096

theorem afterFetch_of_le {a : Word} (h : a.toNat ≤ 4094) : AfterFetch (a + 2) := by
  constructor <;> bv_omega

/-- R36: no instruction that raises nothing takes `pc` above 0x10FE, the highest sum of BNNN. -/
theorem pcAfter_le {i : Instr} {s : State} (hpc : AfterFetch s.pc)
    (hstack : ∀ j : Fin 16, (s.stack[j.val]).toNat ≤ 4096) : (pcAfter i s).toNat ≤ 0x10FE := by
  obtain ⟨hlo, hhi⟩ := hpc
  have hstay : s.pc.toNat ≤ 0x10FE := by omega
  have hskip : (s.pc + 2).toNat ≤ 0x10FE := by bv_omega
  cases i
  case jp nnn | call nnn =>
    have := nnn.isLt
    simp only [pcAfter, BitVec.toNat_setWidth]
    omega
  case ret => exact (hstack ⟨s.sp.val - 1, by omega⟩).trans (by decide)
  case jpV0 nnn =>
    have := nnn.isLt
    have := (s.readV 0).isLt
    simp only [pcAfter, BitVec.toNat_ofNat]
    omega
  case seImm | sneImm | seReg | sneReg | skp | sknp =>
    simp only [pcAfter]
    split <;> assumption
  case ldVxK =>
    simp only [pcAfter]
    split
    · bv_omega
    · exact hstay
  all_goals exact hstay

/-! ### The fault latch (R300, R303) -/

/-- R300: what an instruction raises is a record of the table; it is raised after the fetch. -/
theorem wf_of_canRaise {i : Instr} {k : FaultKind} (h : canRaise i k = true) (p op : Word) (s : State) :
    FaultRecord.wf ⟨k, p, some op, faultAddr k s⟩ = true := by
  cases k
  case missingRom | unknownOpcode | invalidRomSize => cases i <;> cases h
  all_goals rfl

theorem faultOk_of_none {s : State} (h : s.fault = none) : s.faultOk = true := by
  rw [State.faultOk, h]

/-- R303: a fault is raised after the fetch only with a ROM loaded. -/
theorem faultOk_of_romLoaded {s : State} {r : FaultRecord} (hr : s.fault = some r) (hwf : r.wf = true)
    (hrom : s.romLoaded = true) : s.faultOk = true := by
  simp [State.faultOk, hr, hwf, hrom]

theorem faultOk_of_prefetchFault {s : State} {r : FaultRecord} (h : s.prefetchFault = some r) :
    ({ s with fault := some r } : State).faultOk = true := by
  obtain ⟨-, rfl⟩ | ⟨hrom, -, rfl⟩ := State.prefetchFault_cases h
  · simp [State.faultOk, FaultRecord.wf]
  · exact faultOk_of_romLoaded rfl (by simp [FaultRecord.wf]) hrom

/-! ### A cycle keeps the invariant -/

/-- An instruction executed in a cycle, from `pc` just after the fetch. -/
theorem exec_keeps_inv {i : Instr} {s t : State} (h : exec i s = .next t) (hmem : s.mem.wf = true)
    (hpc : AfterFetch s.pc) (hstack : ∀ j : Fin 16, (s.stack[j.val]).toNat ≤ 4096) (hnone : s.fault = none)
    (hrom : s.romLoaded = true) : t.Inv := by
  obtain ⟨k, hk, rfl⟩ | hc := exec_cases h
  · exact ⟨hmem, hpc.2.trans (by decide), hstack, faultOk_of_romLoaded rfl (wf_of_canRaise hk _ _ s) hrom⟩
  · refine ⟨hc.mem_wf hmem, hc.pc ▸ pcAfter_le hpc hstack, fun j => ?_, faultOk_of_none (hc.fault.trans hnone)⟩
    obtain hj | hj := hc.entry j
    · exact hj ▸ hstack j
    · exact hj ▸ hpc.2

/-- Settles O59: a raise before the fetch and a rejected word change only the latch and `pc`; an instruction starts just
after the fetch, so what it pushes and the `pc` it leaves are in range. -/
theorem stepKeepsInvariant : Obligations.StepKeepsInvariant := by
  rintro s t ⟨hmem, hpc, hstack, hlatch⟩ h
  obtain ⟨hnone, ⟨r, hr, rfl⟩ | ⟨hp, i, -, hexec⟩ | ⟨hp, e, hd, rfl⟩⟩ := step_cases h
  · exact ⟨hmem, hpc, hstack, faultOk_of_prefetchFault hr⟩
  · obtain ⟨hrom, hle⟩ := s.prefetchFault_none_iff.mp hp
    exact exec_keeps_inv hexec hmem (afterFetch_of_le hle) hstack hnone hrom
  · obtain ⟨hrom, hle⟩ := s.prefetchFault_none_iff.mp hp
    obtain ⟨rfl, -⟩ := (rejectedWordsAreTheInvalidOnes _ _).mp hd
    exact ⟨hmem, (afterFetch_of_le hle).2.trans (by decide), hstack, faultOk_of_romLoaded rfl rfl hrom⟩

/-! ### Every transaction keeps the invariant -/

/-- Settles O58. -/
theorem invariantHoldsAtReset : Obligations.InvariantHoldsAtReset where
  memWf := rfl
  pcLe := by decide
  stackLe := by decide
  faultWf := rfl

theorem loadRom_keeps_inv {s t : State} {rom : List Byte} (hs : s.Inv) (h : s.loadRom rom = some t) : t.Inv := by
  obtain ⟨hmem, hpc, hstack, hlatch⟩ := hs
  rw [State.loadRom] at h
  split at h
  · cases h
  next hlen =>
    cases h
    have hr : Config.romBase + rom.length ≤ 4096 := by
      simp only [Config.romBase, Config.memSize] at hlen ⊢
      omega
    refine ⟨Memory.writeBytes_wf rom hmem hr, hpc, hstack, ?_⟩
    -- a loaded ROM only widens what the latch may hold
    cases hf : s.fault with
    | none => exact faultOk_of_none hf
    | some r =>
      rw [State.faultOk, hf, Bool.and_eq_true] at hlatch
      exact faultOk_of_romLoaded hf hlatch.1 rfl

/-- R400: `reset` keeps nothing that the invariant speaks of but the stack entries. -/
theorem resetCore_keeps_inv {s : State} (hs : s.Inv) : s.resetCore.Inv where
  memWf := rfl
  pcLe := invariantHoldsAtReset.pcLe
  stackLe := hs.stackLe
  faultWf := rfl

theorem perform_keeps_inv {s : State} (hs : s.Inv) (tr : Transaction) : (s.perform tr).1.Inv := by
  cases tr with
  | cycle =>
    rw [State.perform]
    split
    · exact stepKeepsInvariant s _ hs ‹_›
    · exact hs
    · exact hs
  | loadRom rom =>
    rw [State.perform]
    split
    · exact loadRom_keeps_inv hs ‹_›
    · exact hs
  | reset => exact resetCore_keeps_inv hs
  | tickTimers | takeRedraw => exact ⟨hs.memWf, hs.pcLe, hs.stackLe, hs.faultWf⟩
  | readDisplay | checkBeep | readFault => exact hs

/-- Settles O60: by induction on the schedule. -/
theorem reachableStatesMeetInvariant : Obligations.ReachableStatesMeetInvariant := by
  intro s hs
  induction hs with
  | construct => exact invariantHoldsAtReset
  | perform tr _ ih => exact perform_keeps_inv ih tr

end Sys2Proof.Proofs
end

section
/-!
What the statements about single instructions share: the word of a row of the formats `XY` and `XYN`, the state a raise
leaves, and the range check of the four meanings that reach memory from `I` up.
-/

namespace Sys2Proof.Proofs

open Sys2Proof.Machine Sys2Proof.Claims

/-- R81, formats `XY` and `XYN`. -/
theorem hexWord_eq_packXYN (o : Nat) (x y : Reg) (n : Nat) : hexWord o x y n = packXYN o x y n := by
  rw [hexWord, packXYN, Nat.mul_comm 0x1000, Nat.mul_comm 0x100, Nat.mul_comm 0x10]

/-- R300, R305: the raise of a meaning, with its word written out. -/
theorem next_raiseIn_eq_raised {w op : Word} (hw : op = w) (s : State) (k : FaultKind) (addr : Option Word) :
    (.next (s.raiseIn k w addr) : Host.Outcome State Fault Refusal) = .next (raised s k op addr) := hw ▸ rfl

/-- R63: a range in memory. -/
theorem ite_rangeOk_of_le {a n : Nat} (h : a + n ≤ 4096) (t u : State) : (if rangeOk a n then t else u) = t :=
  if_pos ((rangeOk_iff a n).mpr h)

/-- R63: a range that runs off the end. -/
theorem ite_rangeOk_of_gt {a n : Nat} (h : 4096 < a + n) (t u : State) : (if rangeOk a n then t else u) = u :=
  if_neg (by rw [rangeOk_iff]; omega)

end Sys2Proof.Proofs
end

section
/-!
The display family (R180-R188): CLS, DRW, and drawing the same sprite twice. These settle O20, O21 and O23.
-/

namespace Sys2Proof.Proofs

open Sys2Proof.Machine Sys2Proof.Claims

/-! ### CLS and DRW -/

/-- Settles O20: the blank grid has no pixel set. -/
theorem clsClearsDisplay : Obligations.ClsClearsDisplay :=
  ⟨decode_encode (i := .cls) rfl, fun _ => ⟨Grid.blank, rfl, Grid.pix_blank⟩⟩

/-- R188, with the sprite in memory. -/
theorem exec_drw_of_le {s : State} {n : Fin 16} (h : s.I.toNat + n.val ≤ 4096) (x y : Reg) :
    exec (.drw x y n) s =
      .next ((s.draw (s.memRead s.I.toNat n.val) (s.readV x) (s.readV y)).1.writeV VF
        (flagByte (drawSprite (s.memRead s.I.toNat n.val) (s.readV x) (s.readV y) s.pix).2)) :=
  congrArg Host.Outcome.next (ite_rangeOk_of_le h _ _)

/-- R188, with the sprite running off the end of memory. -/
theorem exec_drw_of_gt {s : State} {n : Fin 16} (h : 4096 < s.I.toNat + n.val) (x y : Reg) :
    exec (.drw x y n) s = .next (s.raiseIn .invalidRamAddress (encode (.drw x y n)) (some s.I)) :=
  congrArg Host.Outcome.next (ite_rangeOk_of_gt h _ _)

/-- Settles O21: the sprite is what is read from `I` up, if that range is in memory. -/
theorem drwDrawsOrRaises : Obligations.DrwDrawsOrRaises := by
  refine ⟨fun x y n => decode_of_eq_encode (hexWord_eq_packXYN 0xD x y n), fun x y n s hr => ?_, fun x y n s hr => ?_⟩
  · exact ⟨s.memRead s.I.toNat n.val, Memory.length_readBytes _ _ _, fun k => Memory.getElem_readBytes _ _ _ _ _,
      exec_drw_of_le hr x y⟩
  · exact (exec_drw_of_gt hr x y).trans (next_raiseIn_eq_raised (hexWord_eq_packXYN 0xD x y n) s _ _)

/-! ### Drawing twice -/

/-- A bit drawn on a free pixel sets it, and nothing else is set there. -/
theorem Draws.erases_again_iff {m : Mask} {g : Grid} {col : Bool} {r : Grid × Bool} (h : Draws m g col r)
    (hfree : ∀ x y, m x y = true → g.pix x y = false) : Erases m r.1 ↔ ∃ x y, m x y = true := by
  refine exists₂_congr fun x y => and_iff_right_of_imp fun hbit => ?_
  rw [h.pix, hfree x y hbit, hbit, Bool.false_xor]

/-- Settles O23: each draw XORs the same bits into the grid, so the second takes back the first, and it erases what the
first has set. -/
theorem drawTwiceRestores : Obligations.DrawTwiceRestores := by
  intro sprite xa ya g
  have h₁ := drawSprite_draws sprite xa ya g
  have h₂ := drawSprite_draws sprite xa ya (drawSprite sprite xa ya g).1
  refine ⟨Grid.ext_pix fun x y => ?_, fun hfree => ⟨?_, ?_⟩⟩
  · rw [h₂.pix, h₁.pix, Bool.xor_assoc, Bool.xor_self, Bool.xor_false]
  · have hno : ¬ Erases (spriteBit sprite xa ya) g := by
      rintro ⟨x, y, hpix, hbit⟩
      simp [hfree x y hbit] at hpix
    rw [← Bool.not_eq_true, h₁.collision]
    simp [hno]
  · rw [h₂.collision, ← h₁.erases_again_iff hfree]
    exact or_iff_right Bool.false_ne_true

end Sys2Proof.Proofs
end

section
/-!
The rest of the control-flow family: SYS, RET, CALL, the skips on two registers and BNNN (R101-R109). These settle O1, O2, O4
and O6 to O8.
-/

namespace Sys2Proof.Proofs

open Sys2Proof.Machine Sys2Proof.Claims

/-- Settles O1: the word is the encoding of a well-formed SYS, whose meaning is one raise. -/
theorem sysRaisesInvalidOpcode : Obligations.SysRaisesInvalidOpcode := by
  constructor
  · intro nnn hcls hret
    exact decode_of_eq_encode (wordNNN_eq_packNNN 0 nnn) (by simp [Instr.wellFormed, hcls, hret])
  · intro nnn s
    exact next_raiseIn_eq_raised (wordNNN_eq_packNNN 0 nnn) s _ _

/-! ### The return-address stack (R39, R102, R104) -/

theorem exec_ret_of_pos {s : State} (h : s.sp.val ≠ 0) :
    exec .ret s = .next { s with sp := ⟨s.sp.val - 1, by omega⟩, pc := s.stack[s.sp.val - 1] } := by
  rw [exec, execRet, State.pop_of_pos h]
  rfl

theorem exec_ret_empty {s : State} (h : s.sp.val = 0) :
    exec .ret s = .next (s.raiseIn .stackUnderflow (encode .ret) none) := by
  rw [exec, execRet, State.pop_empty h]

theorem exec_call_of_lt {s : State} (h : s.sp.val < 16) (nnn : Addr12) :
    exec (.call nnn) s = .next
      { s with stack := s.stack.set s.sp.val s.pc, sp := ⟨s.sp.val + 1, by omega⟩, pc := zextAddr nnn } := by
  rw [exec, execCall, State.push_of_lt s.pc h]
  rfl

theorem exec_call_full {s : State} (h : s.sp.val = 16) (nnn : Addr12) :
    exec (.call nnn) s = .next (s.raiseIn .stackOverflow (encode (.call nnn)) none) := by
  rw [exec, execCall, State.push_full s.pc h]

/-- Settles O2. -/
theorem retPopsReturnAddress : Obligations.RetPopsReturnAddress := by
  refine ⟨decode_encode (i := .ret) rfl, fun s k hk => ?_, fun s h0 => exec_ret_empty h0⟩
  have hpos : s.sp.val ≠ 0 := by omega
  have htop : s.sp.val - 1 = k.val := by omega
  rw [exec_ret_of_pos hpos]
  simp only [htop]

/-- Settles O4. -/
theorem callPushesReturnAddress : Obligations.CallPushesReturnAddress := by
  refine ⟨fun nnn => decode_of_eq_encode (wordNNN_eq_packNNN 2 nnn), fun nnn s k hk => ?_, fun nnn s hfull => ?_⟩
  · rw [exec_call_of_lt (hk ▸ k.isLt), zextAddr_eq_ofNat]
    simp only [hk]
  · exact (exec_call_full hfull nnn).trans (next_raiseIn_eq_raised (wordNNN_eq_packNNN 2 nnn) s _ _)

/-- Settles O8: RET pops the slot that CALL has pushed, and the slots below it are not written. -/
theorem callThenRetReturns : Obligations.CallThenRetReturns := by
  intro nnn s hlt
  refine ⟨_, _, exec_call_of_lt hlt nnn, exec_ret_of_pos (Nat.succ_ne_zero _), ?_, ?_, fun j hj => ?_⟩
  · simp
  · rfl
  · exact Vector.getElem_set_ne hlt j.isLt (by omega)

/-! ### Skips and BNNN -/

/-- R107. -/
theorem exec_seReg (x y : Reg) (s : State) :
    exec (.seReg x y) s = .next (if s.readV x = s.readV y then { s with pc := s.pc + 2 } else s) :=
  congrArg Host.Outcome.next (s.skipIf_decide (s.readV x = s.readV y))

/-- R108: the skip is on difference, so on equality the state stays. -/
theorem exec_sneReg (x y : Reg) (s : State) :
    exec (.sneReg x y) s = .next (if s.readV x = s.readV y then s else { s with pc := s.pc + 2 }) := by
  have hskip : exec (.sneReg x y) s = .next (if s.readV x ≠ s.readV y then { s with pc := s.pc + 2 } else s) :=
    congrArg Host.Outcome.next (s.skipIf_decide (s.readV x ≠ s.readV y))
  rw [hskip, ite_not]

/-- Settles O6. -/
theorem skipsOnRegisters : Obligations.SkipsOnRegisters := fun x y s =>
  ⟨decode_of_eq_encode (hexWord_eq_packXYN 5 x y 0), decode_of_eq_encode (hexWord_eq_packXYN 9 x y 0),
    exec_seReg x y s, exec_sneReg x y s⟩

/-- Settles O7: the sum of a byte and a 12-bit address does not wrap at 16 bits. -/
theorem jpV0AddsV0Unmasked : Obligations.JpV0AddsV0Unmasked := by
  intro nnn s
  refine ⟨decode_of_eq_encode (wordNNN_eq_packNNN 0xB nnn), s.setPc (jumpV0Target (s.readV 0) nnn), rfl, ?_, rfl⟩
  have hv : (s.readV 0).toNat < 256 := (s.readV 0).isLt
  have hn : nnn.toNat < 4096 := nnn.isLt
  rw [State.setPc_pc, jumpV0Target_eq_ofNat, BitVec.toNat_ofNat, Nat.mod_eq_of_lt (by omega)]
  rfl

end Sys2Proof.Proofs
end

section
/-!
The register-register family (R150-R162): one equation per meaning, its result and flag written as numbers. These settle O13
to O19.
-/

namespace Sys2Proof.Proofs

open Sys2Proof.Machine Sys2Proof.Claims

/-! ### Copy and logic -/

/-- Settles O13: each meaning is one write of `V[X]`. -/
theorem copyAndLogicLeaveFlag : Obligations.CopyAndLogicLeaveFlag := by
  intro x y s
  have hdec {n : Nat} {i : Instr} (he : encode i = packXYN 8 x y n) (hwf : i.wellFormed = true) :
      decode (hexWord 8 x y n) = .ok i := decode_of_eq_encode ((hexWord_eq_packXYN 8 x y n).trans he.symm) hwf
  exact ⟨hdec rfl rfl, hdec rfl rfl, hdec rfl rfl, hdec rfl rfl, rfl, rfl, rfl, rfl⟩

/-! ### The five results and flags as numbers -/

/-- R157, R159: the difference mod 256. -/
theorem sub_eq_ofInt (a b : Byte) : a - b = BitVec.ofInt 8 (a.toNat - b.toNat : Int) := by
  have hb := b.isLt
  apply BitVec.eq_of_toNat_eq
  rw [BitVec.toNat_sub, BitVec.toNat_ofInt]
  omega

/-- R158: the shift right drops bit 0. -/
theorem ushiftRight_one_eq_ofNat (v : Byte) : v >>> 1 = BitVec.ofNat 8 (v.toNat / 2) := by
  have hv := v.isLt
  apply BitVec.eq_of_toNat_eq
  rw [BitVec.toNat_ushiftRight, Nat.shiftRight_eq_div_pow, BitVec.toNat_ofNat]
  omega

/-- R160: the shift left drops bit 7. -/
theorem shiftLeft_one_eq_ofNat (v : Byte) : v <<< 1 = BitVec.ofNat 8 (v.toNat * 2 % 256) := by
  apply BitVec.eq_of_toNat_eq
  rw [BitVec.toNat_shiftLeft, Nat.shiftLeft_eq, BitVec.toNat_ofNat]
  omega

/-- R150, R10: a bit of a byte as the value of VF. -/
theorem flagByte_getLsbD (v : Byte) (i : Nat) : flagByte (v.getLsbD i) = BitVec.ofNat 8 (v.toNat / 2 ^ i % 2) := by
  rw [← BitVec.testBit_toNat, Nat.testBit_eq_decide_div_mod_eq, flagByte_decide]
  obtain h | h := Nat.mod_two_eq_zero_or_one (v.toNat / 2 ^ i) <;> simp [h]

/-- R158. -/
theorem flagByte_shrFlag (v : Byte) : flagByte (shrFlag v) = BitVec.ofNat 8 (v.toNat % 2) := by
  rw [shrFlag, flagByte_getLsbD, Nat.pow_zero, Nat.div_one]

/-- R160: above bit 7 there is nothing. -/
theorem flagByte_shlFlag (v : Byte) : flagByte (shlFlag v) = BitVec.ofNat 8 (v.toNat / 128) := by
  have hv := v.isLt
  rw [shlFlag, flagByte_getLsbD]
  congr 1
  omega

/-- Settles O15: a sum that wraps is less than either operand, and one that does not is not. -/
theorem carryFlagIsCarryOut : Obligations.CarryFlagIsCarryOut := by
  intro a b
  have ha := a.isLt
  have hb := b.isLt
  rw [carryFlag, decide_eq_true_iff, BitVec.toNat_add]
  omega

/-! ### The flag-writing meanings -/

/-- R156. -/
theorem exec_addReg (x y : Reg) (s : State) :
    exec (.addReg x y) s =
      .next (s.writeResultFlag x (s.readV x + s.readV y) (carryFlag (s.readV x) (s.readV y))) := rfl

/-- R157. -/
theorem exec_sub (x y : Reg) (s : State) :
    exec (.sub x y) s = .next (s.writeResultFlag x (s.readV x - s.readV y) (notBorrow (s.readV x) (s.readV y))) := rfl

/-- R159. -/
theorem exec_subn (x y : Reg) (s : State) :
    exec (.subn x y) s = .next (s.writeResultFlag x (s.readV y - s.readV x) (notBorrow (s.readV y) (s.readV x))) := rfl

/-- Settles O14. -/
theorem addSetsCarry : Obligations.AddSetsCarry := by
  intro x y s
  refine ⟨decode_of_eq_encode (hexWord_eq_packXYN 8 x y 4), ?_⟩
  rw [exec_addReg, State.writeResultFlag, flagByte_carryFlag, add_eq_ofNat_mod]
  rfl

/-- Settles O16. -/
theorem subtractionsSetNotBorrow : Obligations.SubtractionsSetNotBorrow := by
  intro x y s
  refine ⟨decode_of_eq_encode (hexWord_eq_packXYN 8 x y 5), decode_of_eq_encode (hexWord_eq_packXYN 8 x y 7), ?_, ?_⟩
  · rw [exec_sub, State.writeResultFlag, flagByte_notBorrow, sub_eq_ofInt]
    rfl
  · rw [exec_subn, State.writeResultFlag, flagByte_notBorrow, sub_eq_ofInt]
    rfl

/-- Settles O17: either value of the quirk only picks the register that is shifted. -/
theorem shiftsSetShiftedOutBit : Obligations.ShiftsSetShiftedOutBit := by
  intro x y s
  refine ⟨decode_of_eq_encode (hexWord_eq_packXYN 8 x y 6), decode_of_eq_encode (hexWord_eq_packXYN 8 x y 0xE), rfl, rfl,
    fun quirk => ⟨?_, ?_⟩⟩
  · rw [shrWith, State.writeResultFlag, flagByte_shrFlag, ushiftRight_one_eq_ofNat]
    rfl
  · rw [shlWith, State.writeResultFlag, flagByte_shlFlag, shiftLeft_one_eq_ofNat]
    rfl

/-! ### The flag is written last -/

/-- R151: whatever X is. -/
theorem VF_writeResultFlag (s : State) (x : Reg) (b : Byte) (f : Bool) :
    (s.writeResultFlag x b f).V[15] = flagByte f :=
  Vector.getElem_set_self _

/-- R151: any other register keeps the result. -/
theorem result_writeResultFlag (s : State) {x : Reg} (hx : x ≠ 15) (b : Byte) (f : Bool) :
    (s.writeResultFlag x b f).V[x.val] = b :=
  (getElem_setVF_of_ne hx).trans (Vector.getElem_set_self _)

theorem flagByte_eq_ite (f : Bool) {p : Prop} [Decidable p] (h : f = true ↔ p) :
    flagByte f = if p then 1#8 else 0#8 := by
  rw [← flagByte_decide, Bool.eq_iff_iff.mpr (h.trans decide_eq_true_iff.symm)]

/-- Settles O18: the flags are those of the old operands. -/
theorem flagOverwritesResultInVF : Obligations.FlagOverwritesResultInVF := by
  intro y s
  refine ⟨⟨_, rfl, ?_⟩, ⟨_, rfl, ?_⟩, ⟨_, rfl, ?_⟩, ⟨_, rfl, ?_⟩, ⟨_, rfl, ?_⟩⟩
  · exact (VF_writeResultFlag _ _ _ _).trans (flagByte_eq_ite _ (carryFlagIsCarryOut _ _))
  · exact (VF_writeResultFlag _ _ _ _).trans (flagByte_notBorrow _ _)
  · exact (VF_writeResultFlag _ _ _ _).trans (flagByte_notBorrow _ _)
  · exact (VF_writeResultFlag _ _ _ _).trans (flagByte_shrFlag _)
  · exact (VF_writeResultFlag _ _ _ _).trans (flagByte_shlFlag _)

/-- Settles O19: SUBN X, Y and SUB Y, X compute one flag from the same operands, and the two differences are each other's
negation. -/
theorem flagIdentities : Obligations.FlagIdentities := by
  intro a b
  refine ⟨?_, fun x y s _ hx _ => ?_, ?_, ?_⟩
  · rw [flagByte_notBorrow]
    by_cases h : a.toNat < b.toNat
    · simp [h, Nat.not_le_of_lt h]
    · simp [h, Nat.le_of_not_lt h]
  · refine ⟨_, _, _, exec_subn x y s, exec_sub y x s, exec_sub x y s, ?_, ?_⟩
    · rw [VF_writeResultFlag, VF_writeResultFlag]
    · rw [result_writeResultFlag s hx, result_writeResultFlag s hx]
      exact (sub_add_sub_cancel _ _ _).trans (sub_self _)
  · have ha := a.isLt
    rw [flagByte_shrFlag, BitVec.toNat_ofNat]
    omega
  · have ha := a.isLt
    rw [flagByte_shlFlag, BitVec.toNat_ofNat]
    omega

end Sys2Proof.Proofs
end

section
/-!
What asks the host: RND, SKP, SKNP and LD VX, K (R133, R210-R214), for every answer. These settle O12 and O24 to O26.
-/

namespace Sys2Proof.Proofs

open Sys2Proof.Machine Sys2Proof.Claims

/-! ### RND -/

/-- R133: masking leaves nothing outside the mask. -/
theorem and_and_not_self (r nn : Byte) : r &&& nn &&& ~~~nn = 0#8 := by
  ext i hi
  simp

/-- Settles O12. -/
theorem rndMasksRandomByte : Obligations.RndMasksRandomByte := by
  intro x nn s
  refine ⟨decode_of_eq_encode (wordXNN_eq_packXNN 0xC x nn), rfl, fun _ => rfl, fun t h => ?_⟩
  cases h
  have hx : (rndWith s.askRandom x nn s).V[x.val] = s.askRandom &&& nn := Vector.getElem_set_self _
  rw [hx, and_and_not_self]

/-! ### SKP and SKNP -/

/-- R210: a register in range holds a key number. -/
theorem keyIndex_of_toNat_eq {v : Byte} {k : Reg} (h : v.toNat = k.val) : keyIndex v = some k := by
  obtain ⟨_, he⟩ | ⟨hgt, -⟩ := keyIndex_cases v
  · rw [he]
    exact congrArg some (Fin.ext h)
  · omega

theorem keyIndex_of_gt {v : Byte} (h : 15 < v.toNat) : keyIndex v = none := by
  obtain ⟨hlt, -⟩ | ⟨-, he⟩ := keyIndex_cases v
  · omega
  · exact he

/-- R110. -/
theorem skipIf_eq (s : State) (c : Bool) : s.skipIf c = { s with pc := if c then s.pc + 2 else s.pc } := by
  cases c <;> rfl

theorem skpWith_of_key {x k : Reg} {s : State} (h : (s.readV x).toNat = k.val) (down : Reg → Bool) :
    skpWith down x s = s.nextQuery.skipIf (down k) := by
  rw [skpWith, keyIndex_of_toNat_eq h]

theorem skpWith_of_gt {x : Reg} {s : State} (h : 15 < (s.readV x).toNat) (down : Reg → Bool) :
    skpWith down x s = s.raiseIn .keyIndexOutOfRange (encode (.skp x)) none := by
  rw [skpWith, keyIndex_of_gt h]

theorem sknpWith_of_key {x k : Reg} {s : State} (h : (s.readV x).toNat = k.val) (down : Reg → Bool) :
    sknpWith down x s = s.nextQuery.skipIf (!down k) := by
  rw [sknpWith, keyIndex_of_toNat_eq h]

theorem sknpWith_of_gt {x : Reg} {s : State} (h : 15 < (s.readV x).toNat) (down : Reg → Bool) :
    sknpWith down x s = s.raiseIn .keyIndexOutOfRange (encode (.sknp x)) none := by
  rw [sknpWith, keyIndex_of_gt h]

/-- Settles O24: what holds for every answer holds for the host's. -/
theorem skpSkipsWhenDown : Obligations.SkpSkipsWhenDown := by
  have hanswer (down : Reg → Bool) (x k : Reg) (s : State) (h : (s.V[x.val]).toNat = k.val) :
      skpWith down x s = { s with draws := s.draws + 1, pc := if down k then s.pc + 2 else s.pc } :=
    (skpWith_of_key h down).trans (skipIf_eq _ _)
  refine ⟨fun x => decode_of_eq_encode (wordXNN_eq_packX 0xE x 0x9E), fun x k s h => ?_, fun x s h => ?_, hanswer⟩
  · exact congrArg Host.Outcome.next (hanswer s.askKeyDown x k s h)
  · exact (congrArg Host.Outcome.next (skpWith_of_gt h _)).trans
      (next_raiseIn_eq_raised (wordXNN_eq_packX 0xE x 0x9E) s _ _)

/-- Settles O25: as O24, with the skip on the negation. -/
theorem sknpSkipsWhenUp : Obligations.SknpSkipsWhenUp := by
  have hanswer (down : Reg → Bool) (x k : Reg) (s : State) (h : (s.V[x.val]).toNat = k.val) :
      sknpWith down x s = { s with draws := s.draws + 1, pc := if down k then s.pc else s.pc + 2 } :=
    (sknpWith_of_key h down).trans (skipIf_not_eq _ _)
  refine ⟨fun x => decode_of_eq_encode (wordXNN_eq_packX 0xE x 0xA1), fun x k s h => ?_, fun x s h => ?_, hanswer⟩
  · exact congrArg Host.Outcome.next (hanswer s.askKeyDown x k s h)
  · exact (congrArg Host.Outcome.next (sknpWith_of_gt h _)).trans
      (next_raiseIn_eq_raised (wordXNN_eq_packX 0xE x 0xA1) s _ _)

/-! ### LD VX, K -/

/-- Settles O26: by the host's answer. -/
theorem ldVxKWaitsOrStores : Obligations.LdVxKWaitsOrStores := by
  intro x s
  refine ⟨decode_of_eq_encode (wordXNN_eq_packX 0xF x 0x0A), ?_, rfl, fun _ => rfl⟩
  rw [exec, execLdVxK]
  cases s.askFirstKey <;> rfl

end Sys2Proof.Proofs
end

section
/-!
The index and block-memory family (R240-R244): FX1E, FX29, FX33, FX55 and FX65. These settle O29 to O34.
-/

namespace Sys2Proof.Proofs

open Sys2Proof.Machine Sys2Proof.Claims

/-! ### Index arithmetic -/

/-- R240: the sum mod 65536. -/
theorem indexSum_eq_ofNat (i : Word) (v : Byte) : indexSum i v = BitVec.ofNat 16 ((i.toNat + v.toNat) % 65536) := by
  have hv := v.isLt
  apply BitVec.eq_of_toNat_eq
  rw [indexSum, zextByte, BitVec.toNat_add, BitVec.toNat_setWidth, BitVec.toNat_ofNat]
  omega

/-- Settles O29. -/
theorem indexArithmetic : Obligations.IndexArithmetic := by
  intro x s
  refine ⟨decode_of_eq_encode (wordXNN_eq_packX 0xF x 0x1E), decode_of_eq_encode (wordXNN_eq_packX 0xF x 0x29), ?_, rfl⟩
  exact congrArg (fun a => Host.Outcome.next (s.setI a)) (indexSum_eq_ofNat s.I (s.readV x))

/-! ### The three block instructions, in range and out of range (R63) -/

theorem exec_ldBVx_of_le {s : State} (h : s.I.toNat + 3 ≤ 4096) (x : Reg) :
    exec (.ldBVx x) s = .next (s.memWrite s.I.toNat (decimalDigits (s.readV x))) :=
  congrArg Host.Outcome.next (ite_rangeOk_of_le h _ _)

theorem exec_ldBVx_of_gt {s : State} (h : 4096 < s.I.toNat + 3) (x : Reg) :
    exec (.ldBVx x) s = .next (s.raiseIn .invalidRamAddress (encode (.ldBVx x)) (some s.I)) :=
  congrArg Host.Outcome.next (ite_rangeOk_of_gt h _ _)

theorem exec_ldMemVx_of_le {s : State} {x : Reg} (h : s.I.toNat + x.val + 1 ≤ 4096) :
    exec (.ldMemVx x) s = .next (s.memWrite s.I.toNat (s.firstRegs x)) :=
  congrArg Host.Outcome.next (ite_rangeOk_of_le h _ _)

theorem exec_ldMemVx_of_gt {s : State} {x : Reg} (h : 4096 < s.I.toNat + x.val + 1) :
    exec (.ldMemVx x) s = .next (s.raiseIn .invalidRamAddress (encode (.ldMemVx x)) (some s.I)) :=
  congrArg Host.Outcome.next (ite_rangeOk_of_gt h _ _)

theorem exec_ldVxMem_of_le {s : State} {x : Reg} (h : s.I.toNat + x.val + 1 ≤ 4096) :
    exec (.ldVxMem x) s = .next { s with V := loadRegs s.mem s.I.toNat (x.val + 1) s.V } :=
  congrArg Host.Outcome.next (ite_rangeOk_of_le h _ _)

theorem exec_ldVxMem_of_gt {s : State} {x : Reg} (h : 4096 < s.I.toNat + x.val + 1) :
    exec (.ldVxMem x) s = .next (s.raiseIn .invalidRamAddress (encode (.ldVxMem x)) (some s.I)) :=
  congrArg Host.Outcome.next (ite_rangeOk_of_gt h _ _)

/-! ### FX33 -/

/-- R242: the bytes stored are decimal digits, so none wraps. -/
theorem read_store_decimalDigits {m : Memory} {a : Nat} (hwf : m.wf = true) (hr : a + 3 ≤ 4096) (v : Byte) :
    ((m.writeBytes a (decimalDigits v)).read a).toNat = v.toNat / 100 ∧
      ((m.writeBytes a (decimalDigits v)).read (a + 1)).toNat = v.toNat / 10 % 10 ∧
      ((m.writeBytes a (decimalDigits v)).read (a + 2)).toNat = v.toNat % 10 := by
  have hv := v.isLt
  have hbyte (k : Nat) (hk : k < 3) :
      (m.writeBytes a (decimalDigits v)).read (a + k) = (decimalDigits v)[k]'hk := read_writeBytes_inside hwf hr hk
  have h0 := hbyte 0 (by decide)
  rw [Nat.add_zero] at h0
  rw [h0, hbyte 1 (by decide), hbyte 2 (by decide)]
  simp only [decimalDigits, List.getElem_cons_zero, List.getElem_cons_succ, BitVec.toNat_ofNat]
  omega

/-- Settles O30. -/
theorem ldBStoresDigits : Obligations.LdBStoresDigits := by
  refine ⟨fun x => decode_of_eq_encode (wordXNN_eq_packX 0xF x 0x33), fun x s hwf hr => ?_, fun x s hr => ?_⟩
  · have hlen : (decimalDigits (s.readV x)).length = 3 := length_decimalDigits _
    obtain ⟨h0, h1, h2⟩ := read_store_decimalDigits hwf hr (s.readV x)
    exact ⟨s.mem.writeBytes s.I.toNat (decimalDigits (s.readV x)), exec_ldBVx_of_le hr x, h0, h1, h2,
      fun a ha => read_writeBytes_outside hwf (hlen ▸ hr) (hlen ▸ ha)⟩
  · exact (exec_ldBVx_of_gt hr x).trans (next_raiseIn_eq_raised (wordXNN_eq_packX 0xF x 0x33) s _ _)

/-! ### FX55 and FX65 -/

/-- R243: byte `i` of the store is register `i`. -/
theorem read_store_firstRegs {s : State} {x : Reg} (hwf : s.mem.wf = true) (hr : s.I.toNat + x.val + 1 ≤ 4096)
    {i : Fin 16} (hi : i.val ≤ x.val) :
    (s.mem.writeBytes s.I.toNat (s.firstRegs x)).read (s.I.toNat + i.val) = s.V[i.val] := by
  have hlen : (s.firstRegs x).length = x.val + 1 := length_firstRegs s x
  rw [read_writeBytes_inside hwf (hlen ▸ hr) (hlen ▸ Nat.lt_succ_of_le hi), getElem_firstRegs]

/-- Settles O31. -/
theorem ldMemStoresRegisters : Obligations.LdMemStoresRegisters := by
  refine ⟨fun x => decode_of_eq_encode (wordXNN_eq_packX 0xF x 0x55), fun x s hwf hr => ?_, fun x s hr => ?_⟩
  · have hlen : (s.firstRegs x).length = x.val + 1 := length_firstRegs s x
    exact ⟨s.mem.writeBytes s.I.toNat (s.firstRegs x), exec_ldMemVx_of_le hr, fun i => read_store_firstRegs hwf hr,
      fun a ha => read_writeBytes_outside hwf (hlen ▸ hr) (hlen ▸ ha)⟩
  · exact (exec_ldMemVx_of_gt hr).trans (next_raiseIn_eq_raised (wordXNN_eq_packX 0xF x 0x55) s _ _)

/-- R244: `getElem_loadRegs` with the bound as the rule gives it. -/
theorem getElem_loadRegs_succ (m : Memory) (base : Nat) (x : Reg) (V : Vector Byte 16) (i : Fin 16) :
    (loadRegs m base (x.val + 1) V)[i.val] = if i.val ≤ x.val then m.read (base + i.val) else V[i.val] := by
  simp only [getElem_loadRegs, Nat.lt_succ_iff]

/-- Settles O32. -/
theorem ldVxLoadsRegisters : Obligations.LdVxLoadsRegisters := by
  refine ⟨fun x => decode_of_eq_encode (wordXNN_eq_packX 0xF x 0x65), fun x s hr => ?_, fun x s hr => ?_⟩
  · exact ⟨_, exec_ldVxMem_of_le hr, getElem_loadRegs_succ s.mem s.I.toNat x s.V⟩
  · exact (exec_ldVxMem_of_gt hr).trans (next_raiseIn_eq_raised (wordXNN_eq_packX 0xF x 0x65) s _ _)

/-- Settles O33: FX55 leaves `I` alone, so FX65 reads the bytes that were stored. -/
theorem storeThenLoadRestoresRegisters : Obligations.StoreThenLoadRestoresRegisters := by
  intro x s W hwf hr
  refine ⟨_, _, exec_ldMemVx_of_le hr, exec_ldVxMem_of_le hr, fun i => ?_⟩
  refine (getElem_loadRegs_succ _ _ x W i).trans ?_
  split
  next hi => exact read_store_firstRegs hwf hr hi
  next => rfl

/-- Settles O34: the next fetch is at `pc`, where the first two registers now stand. -/
theorem storeIsSeenByNextFetch : Obligations.StoreIsSeenByNextFetch := by
  intro x s hwf hr hx hpc
  refine ⟨_, exec_ldMemVx_of_le hr, ?_⟩
  rw [toNat_fetchWord, State.memWrite_mem, State.memWrite_pc, hpc]
  have h0 := read_store_firstRegs hwf hr (i := 0) (Nat.zero_le _)
  have h1 := read_store_firstRegs hwf hr (i := 1) hx
  exact congrArg₂ (fun hi lo : Byte => hi.toNat * 256 + lo.toNat) h0 h1

end Sys2Proof.Proofs
end

section
/-!
Construction and the host's transactions other than `cycle` (R49, R67, R217, R218, R400-R403, R420-R423). These settle O52
to O56.
-/

namespace Sys2Proof.Proofs

open Sys2Proof.Machine Sys2Proof.Claims

/-- R46, R49: the font table. -/
theorem resetByte_font (k : Fin 80) : resetByte (0x050 + k.val) = fontByte k := by
  rw [resetByte, dif_pos (by simp only [Config.fontBase, Config.fontLen]; omega)]
  simp only [Config.fontBase, Nat.add_sub_cancel_left]

/-- R49: everything else. -/
theorem resetByte_of_no_font {a : Nat} (h : a < 0x050 ∨ 0x0A0 ≤ a) : resetByte a = 0#8 := by
  rw [resetByte, dif_neg (by simp only [Config.fontBase, Config.fontLen]; omega)]

/-- Settles O52: memory lists nothing at construction, so every address reads as its reset contents. -/
theorem constructionValues : Obligations.ConstructionValues :=
  ⟨fun _ => Vector.getElem_replicate _, rfl, rfl, rfl, rfl, rfl, fun _ => Vector.getElem_replicate _, rfl, rfl, rfl,
    Grid.pix_blank, resetByte_font, fun _ => resetByte_of_no_font⟩

/-- Settles O53: the state `reset` leaves has no ROM loaded (O35). -/
theorem resetTransaction : Obligations.ResetTransaction :=
  fun s => ⟨s.resetCore, rfl, rfl, cycleWithoutRomRaises s.resetCore rfl rfl⟩

/-- R217: one step of a timer. -/
theorem toNat_tick (b : Byte) : (if b = 0 then 0 else b - 1 : Byte).toNat = b.toNat - 1 := by
  split
  next h => rw [h]; rfl
  next h => bv_omega

/-- Settles O54. -/
theorem tickDecrementsTimers : Obligations.TickDecrementsTimers :=
  fun s => ⟨_, _, rfl, toNat_tick s.DT, toNat_tick s.ST⟩

theorem loadRom_of_le {rom : List Byte} (h : rom.length ≤ 3584) (s : State) :
    s.loadRom rom = some { s.memWrite Config.romBase rom with romLoaded := true } :=
  if_neg (by simp only [Config.romBase, Config.memSize]; omega)

theorem loadRom_of_gt {rom : List Byte} (h : 3584 < rom.length) (s : State) : s.loadRom rom = none :=
  if_pos (by simp only [Config.romBase, Config.memSize]; omega)

/-- Settles O55: a ROM of at most 3584 bytes fits between 0x200 and the end of memory. -/
theorem loadRomCopiesOrRejects : Obligations.LoadRomCopiesOrRejects := by
  constructor
  · intro s rom hwf hlen
    have hr : 0x200 + rom.length ≤ 4096 := by omega
    refine ⟨s.mem.writeBytes 0x200 rom, ?_, fun k => read_writeBytes_inside hwf hr k.isLt,
      fun a => read_writeBytes_outside hwf hr⟩
    rw [State.perform, loadRom_of_le hlen]
    rfl
  · intro s rom hlen
    rw [State.perform, loadRom_of_gt hlen]

/-- R218: the beep is on exactly while ST is not 0. -/
theorem checkBeep_eq (s : State) : s.checkBeep = decide (s.ST.toNat ≠ 0) := by
  rw [State.checkBeep, bne, beq_eq_decide, ← decide_not]
  congr 1
  exact propext (not_congr BitVec.toNat_inj.symm)

/-- Settles O56. -/
theorem hostReadsAnswer : Obligations.HostReadsAnswer :=
  fun s => ⟨rfl, congrArg (fun b => (s, Reply.beep b)) (checkBeep_eq s), rfl, rfl⟩

end Sys2Proof.Proofs
end
